-- ==== Sys2Proof/Word.lean ====
section
/-! DEFINITION. The widths the spec gives its values (00_scope.md rules R8, R10). -/

namespace Sys2Proof

/-- A byte on the bus, in a ROM, or an operand `IMM[7:0]` (R61, R71). -/
abbrev Byte := BitVec 8

/-- A 16-bit value: the result register (R21), a TCROM entry (R56), the field `IMM` (R70). -/
abbrev Half := BitVec 16

/-- A command word `CW = {OP, PG, COL, IMM}` (R70). -/
abbrev CmdWord := BitVec 32

/-- A raw sample, 10 bits unsigned, 0 to 1023 (R8 `RAW_BITS`, R30). -/
abbrev Sample := BitVec 10

end Sys2Proof
end

