-- ==== Sys2Proof/Syntax.lean ====
section
/-! DEFINITION. The fifteen operations of TWB85 (30_encoding.md rule R72), one constructor per row of
spec/opcode_table.json, each operand at exactly the width R71 gives it, so that an out-of-range column or page
cannot be written (R70, D17). -/

namespace Sys2Proof

/-- One operation with its operands (R71, R72, R81). -/
inductive Instr
  /-- BUS.INIT (R103). -/
  | busInit
  /-- BUS.START byte (R105). -/
  | busStart (addressByte : Byte)
  /-- BUS.WRITE byte (R104). -/
  | busWrite (value : Byte)
  /-- BUS.STOP (R106). -/
  | busStop
  /-- DSP.INIT (R121). -/
  | dspInit
  /-- DSP.CURSOR column, page (R123). -/
  | dspCursor (column : BitVec 7) (page : BitVec 4)
  /-- DSP.CLEAR (R124). -/
  | dspClear
  /-- DSP.GLYPH idx; indices 14 and 15 decode and are refused by the operation (R71, R125). -/
  | dspGlyph (idx : BitVec 4)
  /-- DSP.INT value, column, page; the value is two's complement (R71, R126). -/
  | dspInt (value : Half) (column : BitVec 7) (page : BitVec 4)
  /-- ADC.CFGI (R151). -/
  | adcCfgi
  /-- ADC.CFGT (R153). -/
  | adcCfgt
  /-- ADC.SAMPLE (R154). -/
  | adcSample
  /-- ACQ.AVG (R156). -/
  | acqAvg
  /-- LIN.INT avg (R157). -/
  | linInt (avg : Sample)
  /-- LIN.TC avg, any 16-bit value; those past the table are refused by the operation (R71, R159). -/
  | linTc (avg : Half)
  deriving DecidableEq, Repr

/-- Why a command word is reserved (R73). Both are the one refusal RESERVED_CW of R182. -/
inductive Reject
  /-- `OP` is not a row of R72. -/
  | reservedOp
  /-- `OP` is a row of R72 and a field it does not use is not zero. -/
  | unusedFieldNotZero
  deriving DecidableEq, Repr

end Sys2Proof
end

