-- ==== Sys2Proof/Decode.lean ====
section
/-! DEFINITION. Decoding a command word (30_encoding.md rules R70 to R73), total, and the encoder written from the
same table. -/

namespace Sys2Proof

/-- `OP = CW[31:27]` (R70). -/
def opField (w : CmdWord) : BitVec 5 := w.extractLsb' 27 5
/-- `PG = CW[26:23]` (R70). -/
def pgField (w : CmdWord) : BitVec 4 := w.extractLsb' 23 4
/-- `COL = CW[22:16]` (R70). -/
def colField (w : CmdWord) : BitVec 7 := w.extractLsb' 16 7
/-- `IMM = CW[15:0]` (R70). -/
def immField (w : CmdWord) : Half := w.extractLsb' 0 16

/-- R73: the decoded operation if every unused bit of the word is zero. -/
def whenUnusedZero (unused : Bool) (i : Instr) : Except Reject Instr :=
  if unused then .ok i else .error .unusedFieldNotZero

/-- The operation a command word selects (R71, R72), or why it is reserved (R73). -/
def decode (w : CmdWord) : Except Reject Instr :=
  let pg := pgField w
  let col := colField w
  let imm := immField w
  let noPgCol := decide (pg = 0 ∧ col = 0)
  let noOperand := decide (pg = 0 ∧ col = 0 ∧ imm = 0)
  match (opField w).toNat with
  | 0x01 => whenUnusedZero noOperand .busInit
  | 0x02 => whenUnusedZero (noPgCol && decide (imm.extractLsb' 8 8 = 0)) (.busStart (imm.extractLsb' 0 8))
  | 0x03 => whenUnusedZero (noPgCol && decide (imm.extractLsb' 8 8 = 0)) (.busWrite (imm.extractLsb' 0 8))
  | 0x04 => whenUnusedZero noOperand .busStop
  | 0x08 => whenUnusedZero noOperand .dspInit
  | 0x09 => whenUnusedZero (decide (imm = 0)) (.dspCursor col pg)
  | 0x0A => whenUnusedZero noOperand .dspClear
  | 0x0B => whenUnusedZero (noPgCol && decide (imm.extractLsb' 4 12 = 0)) (.dspGlyph (imm.extractLsb' 0 4))
  | 0x0C => .ok (.dspInt imm col pg)
  | 0x10 => whenUnusedZero noOperand .adcCfgi
  | 0x11 => whenUnusedZero noOperand .adcCfgt
  | 0x12 => whenUnusedZero noOperand .adcSample
  | 0x13 => whenUnusedZero noOperand .acqAvg
  | 0x14 => whenUnusedZero (noPgCol && decide (imm.extractLsb' 10 6 = 0)) (.linInt (imm.extractLsb' 0 10))
  | 0x15 => whenUnusedZero noPgCol (.linTc imm)
  | _ => .error .reservedOp

/-- `CW = {OP, PG, COL, IMM}` (R70): `OP<<27 | PG<<23 | COL<<16 | IMM`. -/
def pack (op : BitVec 5) (pg : BitVec 4) (col : BitVec 7) (imm : Half) : CmdWord :=
  op.setWidth 32 <<< 27 ||| pg.setWidth 32 <<< 23 ||| col.setWidth 32 <<< 16 ||| imm.setWidth 32

/-- The command word of an operation: its `OP` of R72, its operands in R71's fields, zero elsewhere. -/
def encode : Instr → CmdWord
  | .busInit => pack 0x01 0 0 0
  | .busStart b => pack 0x02 0 0 (b.setWidth 16)
  | .busWrite b => pack 0x03 0 0 (b.setWidth 16)
  | .busStop => pack 0x04 0 0 0
  | .dspInit => pack 0x08 0 0 0
  | .dspCursor col pg => pack 0x09 pg col 0
  | .dspClear => pack 0x0A 0 0 0
  | .dspGlyph idx => pack 0x0B 0 0 (idx.setWidth 16)
  | .dspInt v col pg => pack 0x0C pg col v
  | .adcCfgi => pack 0x10 0 0 0
  | .adcCfgt => pack 0x11 0 0 0
  | .adcSample => pack 0x12 0 0 0
  | .acqAvg => pack 0x13 0 0 0
  | .linInt avg => pack 0x14 0 0 (avg.setWidth 16)
  | .linTc avg => pack 0x15 0 0 avg

/-- The column `match` of the opcode map (R72): the row of an operation. -/
def rowMatch : Instr → CmdWord
  | .busInit => 0x08000000
  | .busStart _ => 0x10000000
  | .busWrite _ => 0x18000000
  | .busStop => 0x20000000
  | .dspInit => 0x40000000
  | .dspCursor _ _ => 0x48000000
  | .dspClear => 0x50000000
  | .dspGlyph _ => 0x58000000
  | .dspInt _ _ _ => 0x60000000
  | .adcCfgi => 0x80000000
  | .adcCfgt => 0x88000000
  | .adcSample => 0x90000000
  | .acqAvg => 0x98000000
  | .linInt _ => 0xA0000000
  | .linTc _ => 0xA8000000

/-- The column `mask` of the opcode map (R72). -/
def rowMask : Instr → CmdWord
  | .busInit | .busStop | .dspInit | .dspClear | .adcCfgi | .adcCfgt | .adcSample | .acqAvg => 0xFFFFFFFF
  | .busStart _ | .busWrite _ => 0xFFFFFF00
  | .dspCursor _ _ => 0xF800FFFF
  | .dspGlyph _ => 0xFFFFFFF0
  | .dspInt _ _ _ => 0xF8000000
  | .linInt _ => 0xFFFFFC00
  | .linTc _ => 0xFFFF0000

/-- "A command word `w` selects the row with `w & mask = match`" (R72). -/
def selectsRow (w : CmdWord) (i : Instr) : Prop := w &&& rowMask i = rowMatch i

/-- The instruction the decoder reads from a table word of `nbits` bits: a command word is one 32-bit value (R70),
so its bit 0 is bit 0 of `w`, and bits at and above `nbits` are 0. -/
def decodeTableWord (nbits w : Nat) : Option Instr :=
  match decode (BitVec.ofNat 32 (w % 2 ^ nbits)) with
  | .ok i => some i
  | .error _ => none

end Sys2Proof
end

