-- ==== Sys2Proof/Config.lean ====
section
/-! DEFINITION. What an implementation of TWB85 fixes: the record `Config` of 00_scope.md rule R8, the constants
that rule fixes for every implementation, the spec's example configuration, and the free values of the environment
(opaque: nothing in Lean can evaluate them). Well-formedness (R9) is in Sys2Proof/WellFormed.lean. -/

namespace Sys2Proof

/-- `START_ORDER` (R8, R105): which line BUS.START drives low first. The spec takes `sdaThenScl` (D5). -/
inductive StartOrder
  | sdaThenScl
  | sclThenSda
  deriving DecidableEq, Repr

/-- An analog source of the converter: what `ADC_SEL` names when it is not `NONE` (R29, R150). -/
inductive Source
  | internal
  | thermocouple
  deriving DecidableEq, Repr

/-- A (column, page) anchor of a rendered value: `POS_INT`, `POS_TC` (R8, R131). -/
structure Anchor where
  column : BitVec 7
  page : BitVec 4
  deriving DecidableEq, Repr

/-- The record `Config` (R8, R33): the read-only constants the block is built with. The three ROMs of R50 are the
fields `glyph`, `tcTable` and `initSeq`. -/
structure Config where
  /-- `DISP_ADDR_BYTE`, the address-plus-mode byte of every Display Driver transaction (R64). -/
  dispAddrByte : Byte
  /-- `COL_HI_BASE` (R77). -/
  colHiBase : Byte
  /-- `PAGE_BASE` (R77). -/
  pageBase : Byte
  /-- `INIT_SEQ` (R58, R78, R122). -/
  initSeq : List Byte
  /-- `GLYPH`, the glyph table (R52, R54). -/
  glyph : List (List Byte)
  /-- `N_SAMPLES`, samples per average (R156). -/
  nSamples : Nat
  /-- `FRAC`, fractional bits of the linear transform (R157). -/
  frac : Nat
  /-- `SCALE_Q`, unsigned (R157). -/
  scaleQ : BitVec 16
  /-- `OFFSET_Q`, two's complement (R157). -/
  offsetQ : BitVec 32
  /-- `NBUCKETS` (R160). -/
  nBuckets : Nat
  /-- `TC_TABLE` (R56). -/
  tcTable : List Half
  /-- `ROUND_BIAS` (R159). -/
  roundBias : Nat
  /-- `START_ORDER` (R105). -/
  startOrder : StartOrder
  /-- `POS_INT`, the anchor of the internal temperature (R131). -/
  posInt : Anchor
  /-- `POS_TC`, the anchor of the thermocouple temperature (R131). -/
  posTc : Anchor
  deriving DecidableEq, Repr

/-! The constants that R8 fixes. -/

/-- `CTRL_CMD`: the control byte of a command-mode transaction (R76). -/
def ctrlCmd : Byte := 0x00
/-- `CTRL_DATA`: the control byte of a data-mode transaction (R76). -/
def ctrlData : Byte := 0x40
/-- `NCOLS`. -/
def nCols : Nat := 128
/-- `NPAGES`. -/
def nPages : Nat := 16
/-- `GLYPH_W`: bytes, and columns, of a glyph. -/
def glyphW : Nat := 6
/-- `NGLYPH`: entries of the glyph table. -/
def nGlyph : Nat := 14

/-- The five commands of the initialization sequence, each one or more bytes, in the order of R122. -/
structure InitCommands where
  displayOff : List Byte
  addressingMode : List Byte
  multiplexRatio : List Byte
  normalDisplay : List Byte
  displayOn : List Byte
  deriving DecidableEq, Repr

/-- R78: `INIT_SEQ` is the concatenation of the encodings of the five commands, in R122's order. -/
def InitCommands.seq (k : InitCommands) : List Byte :=
  k.displayOff ++ k.addressingMode ++ k.multiplexRatio ++ k.normalDisplay ++ k.displayOn

/-- The example commands of R78 (from general knowledge, not in source, as R78 says). -/
def InitCommands.specExample : InitCommands where
  displayOff := [0xAE]
  addressingMode := [0x20]
  multiplexRatio := [0xA8, 0x7F]
  normalDisplay := [0xA6]
  displayOn := [0xAF]

/-- The example font of R54 (from general knowledge, not in source, as R54 says). -/
def exampleFont : List (List Byte) :=
  [ [0x3E, 0x51, 0x49, 0x45, 0x3E, 0x00],
    [0x00, 0x42, 0x7F, 0x40, 0x00, 0x00],
    [0x42, 0x61, 0x51, 0x49, 0x46, 0x00],
    [0x21, 0x41, 0x45, 0x4B, 0x31, 0x00],
    [0x18, 0x14, 0x12, 0x7F, 0x10, 0x00],
    [0x27, 0x45, 0x45, 0x45, 0x39, 0x00],
    [0x3C, 0x4A, 0x49, 0x49, 0x30, 0x00],
    [0x01, 0x71, 0x09, 0x05, 0x03, 0x00],
    [0x36, 0x49, 0x49, 0x49, 0x36, 0x00],
    [0x06, 0x49, 0x49, 0x29, 0x1E, 0x00],
    [0x00, 0x00, 0x00, 0x00, 0x00, 0x00],
    [0x00, 0x06, 0x09, 0x09, 0x06, 0x00],
    [0x3E, 0x41, 0x41, 0x41, 0x22, 0x00],
    [0x08, 0x08, 0x08, 0x08, 0x08, 0x00] ]

/-- The example configuration of 95_test_vectors.md. None of the OPEN values is in the source: no statement rests
on them (DESIGN CHOICE, log 1). -/
def Config.specExample : Config where
  dispAddrByte := 0x78
  colHiBase := 0x10
  pageBase := 0xB0
  initSeq := InitCommands.specExample.seq
  glyph := exampleFont
  nSamples := 16
  frac := 8
  scaleQ := 256
  offsetQ := 70400
  nBuckets := 9
  tcTable := [0, 1250, 2480, 3700, 4930, 6180, 7440, 8700, 9950, 11200]
  roundBias := 5
  startOrder := .sdaThenScl
  posInt := ⟨0, 0⟩
  posTc := ⟨0, 2⟩

/-! The free values of the environment, each applied to a counter (log 4, log 15). -/

/-- `draw_sample(src)` (R152): the converter's answer for source `src`, "any integer 0 to 1023", "under no law";
the second argument is the tick at which it answers. FREE VALUE (log 4). -/
opaque Config.drawSample (src : Source) (tick : Nat) : Sample

/-- Whether the converter agent takes its step at this tick of a wait (R191: "some time after the START").
FREE VALUE (log 4): it may be false for ever, which is the hung run of R155. -/
opaque Config.converterReady (tick : Nat) : Bool

/-- The converter agent's side of the handshake (R191, R152): at which ticks of a wait it acts, and what it answers.
"A model takes it from an oracle; the block's rules hold for every answer." -/
structure Oracle where
  ready : Nat → Bool
  draw : Source → Nat → Sample

/-- The oracle of the machine: the two free values. -/
def Oracle.free : Oracle := ⟨Config.converterReady, Config.drawSample⟩

/-- What a host puts into a command word where it names the value of a read of `RES` it has not made: the content of
its own variable before the first assignment, one value for each such variable. The spec says nothing of it. FREE VALUE
(log 17). -/
opaque Config.hostUnread (slot : Nat) : Half

/-- The slave side's drive of (data, clock), true meaning driven low, after so many pin actions (R24, R190).
FREE VALUE (log 15): no rule of the block reads it. -/
opaque Config.slaveDrive (position : Nat) : Bool × Bool

end Sys2Proof
end

