-- ==== Sys2Proof/Machine/Operands.lean ====
section
/-! DEFINITION. The pure computations on operands: the bits of a byte (R74), the cursor command bytes (R77), the
symbol indices (R53), the decimal digits and glyphs of a value (R126 to R129), and the two integer conversions
(R157, R159). They read the configuration and nothing else. -/

namespace Sys2Proof.Machine

/-! Bytes on the wire. -/

/-- Bit `k` of a byte (R10). -/
def byteBit (v : Byte) (k : Nat) : Bool := v.getLsbD k

/-- The order in which the bits of a byte are sent: "most-significant first" (R61, R104). -/
def bitOrder : List Nat := [7, 6, 5, 4, 3, 2, 1, 0]

/-- `popcount(v)`: the number of 1 bits (R10). -/
def popcount (v : Byte) : Nat := (bitOrder.filter (byteBit v)).length

/-- The three cursor command bytes, in the order sent (R77, R123). The column is the 8-bit working column of
R126; DSP.CURSOR zero-extends its 7-bit operand to it (R71). -/
def cursorBytes (c : Config) (column : Byte) (page : BitVec 4) : List Byte :=
  [column &&& 0x0F, c.colHiBase ||| (column >>> 4), c.pageBase ||| page.setWidth 8]

/-! Symbol indices (R53). Digit `d` is index `d`. -/

/-- `SPACE`. -/
def glyphSpace : Nat := 10
/-- `DEGREE`. -/
def glyphDegree : Nat := 11
/-- `LETTER_C`. -/
def glyphLetterC : Nat := 12
/-- `MINUS`. -/
def glyphMinus : Nat := 13

/-! DSP.INT's operand. -/

/-- The operand of DSP.INT as a two's-complement `s16` (R71). -/
def signedValue (v : Half) : Int := v.toInt

/-- R126: the number of glyphs of the field, 7 if the value is negative and 6 otherwise. -/
def glyphCount (v : Half) : Nat := if signedValue v < 0 then 7 else 6

/-- R126, R129(c): the column of the last glyph anchor of the field. -/
def lastAnchor (v : Half) (column : BitVec 7) : Nat := column.toNat + 6 * (glyphCount v - 1)

/-- The decimal places, "from most to least significant" (R126). -/
def places : List Nat := [1000, 100, 10, 1]

/-- R127: the `k`-th extracted decimal digit, `(v / 10^k) % 10`. -/
def decDigit (v k : Nat) : Nat := v / 10 ^ k % 10

/-- R127: the entry `ek` of `Digits(v)`: a space if `k > 0` and `d3 = ... = dk = 0`, else the digit. -/
def digitEntry (v k : Nat) : Nat :=
  if k > 0 ∧ ([3, 2, 1, 0].all fun j => decide (j < k) || decide (decDigit v j = 0)) then glyphSpace else decDigit v k

/-- R127: `Digits(v)`, the entries `e3 e2 e1 e0`. -/
def digits (v : Nat) : List Nat := [digitEntry v 3, digitEntry v 2, digitEntry v 1, digitEntry v 0]

/-- R127: `Glyphs(value)`, the glyph list of a value as a pure function. -/
def glyphs (v : Half) : List Nat :=
  (if signedValue v < 0 then [glyphMinus] else []) ++ digits (signedValue v).natAbs
    ++ [glyphDegree, glyphLetterC]

/-! The internal sensor's linear transform (R157). -/

/-- `NUM = avg·SCALE_Q − OFFSET_Q`, exact. -/
def linNum (c : Config) (avg : Nat) : Int := (avg * c.scaleQ.toNat : Nat) - c.offsetQ.toInt

/-- Division truncating toward zero, written as R157 writes it: a floor on a non-negative number on either side. -/
def truncDiv (num : Int) (d : Nat) : Int :=
  if 0 ≤ num then ((num.toNat / d : Nat) : Int) else -(((-num).toNat / d : Nat) : Int)

/-- `celsius` of LIN.INT (R157). -/
def linCelsius (c : Config) (avg : Nat) : Int := truncDiv (linNum c avg) (2 ^ c.frac)

/-! The thermocouple's piecewise-linear interpolation (R159). -/

/-- `BK = avg >> 9`. -/
def tcBucket (avg : Nat) : Nat := avg >>> 9

/-- `PROP = avg − BK·512`. -/
def tcProp (avg : Nat) : Nat := avg - tcBucket avg * 512

/-- `EXTRA = (PROP · DIFF) >> 9` with `DIFF = T1 − T0`: multiply first, then shift. On a well-formed table
`T0 ≤ T1`, so the natural-number difference is the exact one (log 13). -/
def tcExtra (t0 t1 : Half) (avg : Nat) : Nat := (tcProp avg * (t1.toNat - t0.toNat)) >>> 9

/-- `celsius` of LIN.TC (R159). -/
def tcCelsius (bias : Nat) (t0 t1 : Half) (avg : Nat) : Nat := (t0.toNat + tcExtra t0 t1 avg + bias) / 10

/-! The average (R156). -/

/-- `ACC / N_SAMPLES`, floor. -/
def average (c : Config) (acc : Nat) : Nat := acc / c.nSamples

end Sys2Proof.Machine
end

