-- ==== Sys2Proof/Machine/State.lean ====
section
/-! DEFINITION. The state of TWB85 as plain data (10_state.md), the reasons a step can stop (60_exceptions.md rule
R182), and the state after reset (R35, R200). Also the plain data of the observation functions: drive states, bus
events, decoded transactions (40_bus_master.md rules R101, R110) and the optional reference display
(20_memory.md rule R60). -/

namespace Sys2Proof.Machine

/-- What a line driver does (R23): there is no third value, a line is never driven high. -/
inductive Drive
  | low
  | rel
  deriving DecidableEq, Repr

/-- `PHASE` (R25). -/
inductive Phase
  | uninit
  | idle
  | transmitting
  deriving DecidableEq, Repr

/-- A pin action (R100). -/
inductive PinAction
  | sdaLow
  | sdaRel
  | sclLow
  | sclRel
  | hold
  | nop
  deriving DecidableEq, Repr

/-- A converter event (R150). -/
inductive AdcEvent
  | cfg (src : Source)
  | start
  | take (raw : Sample)
  deriving DecidableEq, Repr

/-- `SEQ` (R22) where operations are atomic but for their waits (log 5): no operation running, the wait of
ADC.SAMPLE (R154, R155), or the wait for sample `cnt` of ACQ.AVG with `ACC` of the samples before it (R156, R30). -/
inductive Seq
  | idle
  | sampleWait
  | avgWait (cnt acc : Nat)
  deriving DecidableEq, Repr

/-- One act of the host at the command port (R192; log 6). -/
inductive HostAct
  /-- Present a command word. -/
  | issue (w : CmdWord)
  /-- Read `RES`. -/
  | readRes
  /-- Present `base` with the value of an earlier read of `RES` put into `IMM`, `back` reads before the last
  (R82: "`LIN.INT RES` means: issue LIN.INT with `IMM` set to the value just read from `RES`"). -/
  | issueRead (base : CmdWord) (back : Nat)
  deriving DecidableEq, Repr

/-- Why the machine faults: never. "The block raises no exception, takes no interrupt and has no trap mechanism"
(R180, R185), and 93_implementation_defined.md says the treatment `fault` is never used. -/
inductive Fault : Type
  deriving DecidableEq, Repr

/-- Why a model gives no next state: the closed list of R182, and the host's `notModelled`. A refusal is "a
statement about the model, erring toward unprovable": each is SAFE, since the hardware goes on where the model stops.
-/
inductive Refusal
  /-- An instruction without a meaning in this model; raised by an arm of `exec` only. Safe. -/
  | notModelled (mnemonic : String)
  /-- RESERVED_CW: the command word matches no row; raised by the port when it decodes (R73). Safe. -/
  | reservedCw
  /-- BAD_CONFIG: the configuration is ill formed; raised by `step` before anything else (R9). Safe. -/
  | badConfig
  /-- BUS_PHASE: raised by every BUS and DSP operation that `PHASE` does not allow (R107). Safe. -/
  | busPhase
  /-- GLYPH_INDEX: raised by DSP.GLYPH for an index above 13 (R125). Safe. -/
  | glyphIndex
  /-- VALUE_RANGE: raised by DSP.INT for −32768 (R129). Safe. -/
  | valueRange
  /-- CURSOR_RANGE: raised by DSP.INT when a glyph anchor lies beyond column 127 (R129). Safe. -/
  | cursorRange
  /-- ADC_UNCONFIGURED: raised by ADC.SAMPLE and ACQ.AVG when `ADC_SEL = NONE` (R154, R156). Safe. -/
  | adcUnconfigured
  /-- BUCKET_RANGE: raised by LIN.TC past the table (R160). Safe. -/
  | bucketRange
  /-- ROM_INDEX: raised by `MemRead` outside a table; unreachable from a well-formed configuration (R51). Safe. -/
  | romIndex
  /-- RES_UNWRITTEN: raised by the host's read of `RES` before an operation wrote it, as R182 and R35 say ("reading
  `RES` before an operation that writes it is refused by a model"). Safe. -/
  | resUnwritten
  deriving DecidableEq, Repr

/-- The state of the block (R20), with the host's side of the command port and the model's own counter. -/
structure State where
  /-- `SDA_DRV` (R23). -/
  sdaDrv : Drive
  /-- `SCL_DRV` (R23). -/
  sclDrv : Drive
  /-- `PHASE` (R25). -/
  phase : Phase
  /-- `ADC_SEL` (R29); `none` is `NONE`. -/
  adcSel : Option Source
  /-- `ADC_DONE` (R28). -/
  adcDone : Bool
  /-- `ADC_DATA` (R30). -/
  adcData : Sample
  /-- `RES` (R21). -/
  res : Half
  /-- Whether an operation has written `RES` since reset: what RES_UNWRITTEN of R182 asks (log 7). -/
  resWritten : Bool
  /-- `TRACE` (R31), held newest action first so that appending is one step; `State.trace` reads it in order
  (log 9). -/
  traceRev : List PinAction
  /-- `ADCLOG`, oldest event first (R32). -/
  adcLog : List AdcEvent
  /-- `Config`, never written (R33; log 1). -/
  cfg : Config
  /-- `SEQ` (R22). -/
  seq : Seq
  /-- What the host has still to do at the command port, next act first (R192; log 6). -/
  host : List HostAct
  /-- The values of `RES` the host has read, oldest first (R215). -/
  resReads : List Half
  /-- The model's counter for free values (log 4). -/
  tick : Nat
  deriving DecidableEq, Repr

/-- Reset (R35, R200) of a block built with configuration `c`. `RES` and `ADC_DATA` are unspecified there: zero is
this model's DESIGN CHOICE (log 2); the released pins are R35's own value, marked general knowledge (log 3). -/
def State.resetWith (c : Config) : State where
  sdaDrv := .rel
  sclDrv := .rel
  phase := .uninit
  adcSel := none
  adcDone := false
  adcData := 0
  res := 0
  resWritten := false
  traceRev := []
  adcLog := []
  cfg := c
  seq := .idle
  host := []
  resReads := []
  tick := 0

/-- The machine right after reset, built with the spec's example configuration (DESIGN CHOICE, log 1). -/
def State.reset : State := State.resetWith Config.specExample

/-- What a meaning answers. -/
abbrev Result := Host.Outcome State Fault Refusal

/-! Plain data of the observation functions. -/

/-- The drive state of the two lines, written (sda, scl) in the spec (R12). -/
structure Drives where
  sda : Drive
  scl : Drive
  deriving DecidableEq, Repr

/-- `TRACE`, oldest action first (R31). -/
def State.trace (s : State) : List PinAction := s.traceRev.reverse

/-- The drive state of a machine state. -/
def State.drives (s : State) : Drives := ⟨s.sdaDrv, s.sclDrv⟩

/-- A bus event (R101). -/
inductive BusEvent
  | startCond
  | stopCond
  | clk (b : Bool)
  deriving DecidableEq, Repr

/-- A change of the data driver, with the clock driver's state at that moment (R101, R109). -/
structure DataEdge where
  rising : Bool
  scl : Drive
  deriving DecidableEq, Repr

/-- A transaction read back from a trace: its bytes and the master view of its acknowledgment bits (R110). -/
structure Txn where
  bytes : List Byte
  acks : List Bool
  deriving DecidableEq, Repr

/-- `fail(...)` of the decoder: a verdict about a trace (R110). -/
inductive DecodeFail
  | repeatedStart
  | badStop
  | partialByte
  deriving DecidableEq, Repr

/-- Where the decoder of R110 stands: its variables `open`, `bits`, `out`. -/
structure DecoderState where
  isOpen : Bool
  bits : List Bool
  out : List Txn
  deriving DecidableEq, Repr

/-- The three read-only spaces (R50). -/
inductive Space
  | glyphRom
  | tcRom
  | initRom
  deriving DecidableEq, Repr

/-! The optional reference display (R60). -/

/-- A memory: cells at strictly rising addresses; an address not listed has no known value (R35: the frame buffer
is unspecified). -/
abbrev Memory := List Host.Cell

/-- `mode` of the reference display (R60). -/
inductive DisplayMode
  | none
  | command
  | data
  deriving DecidableEq, Repr

/-- The reference display slave (R60): its cursor, its frame buffer (cell address `128·page + col`), its mode, and
whether a data byte has been stored at column 127 with no cursor command since (log 11). -/
structure Display where
  col : BitVec 7
  page : BitVec 4
  ram : Memory
  mode : DisplayMode
  pastEnd : Bool
  deriving DecidableEq, Repr

/-- What the reference slave has seen of the lines (R60): the block's drive states, whether a transaction is open, and
the clock pulses begun since its start condition. -/
structure SlaveLine where
  drives : Drives
  isOpen : Bool
  pulses : Nat
  deriving DecidableEq, Repr

/-- Why the reference display refuses (R60). It says nothing about the block. -/
inductive DisplayRefusal
  /-- A control byte other than 0x00 and 0x40. -/
  | unknownControl
  /-- A command byte it does not know. -/
  | unknownCommand
  /-- A data byte after the one stored at column 127. -/
  | pastLastColumn
  deriving DecidableEq, Repr

end Sys2Proof.Machine
end

