-- ==== Sys2Proof/Machine/Ops.lean ====
section
/-! DEFINITION. The named operations every meaning is made of: emitting a pin action (R100), the admission checks
and their order (R182, R184), reading a ROM (R51), recording a converter event (R150), writing `RES` (R21). There is
no exception to take and none to return from (R180, R185, R186): a refusal leaves no next state. -/

namespace Sys2Proof.Machine

/-- `emit a` (R100): append the action to `TRACE`, then apply it to the driver it names. -/
def emit (a : PinAction) (s : State) : State :=
  let s := { s with traceRev := a :: s.traceRev }
  match a with
  | .sdaLow => { s with sdaDrv := .low }
  | .sdaRel => { s with sdaDrv := .rel }
  | .sclLow => { s with sclDrv := .low }
  | .sclRel => { s with sclDrv := .rel }
  | .hold => s
  | .nop => s

/-- `PHASE <- p` (R25). -/
def setPhase (p : Phase) (s : State) : State := { s with phase := p }

/-- `refuse(reason)` (R182). -/
def refuse (r : Refusal) : Result := .refused r

/-- The admission checks of an operation, in the order of R184, all before its first action: the first that fails
is the refusal. -/
def checkThen (checks : List (Bool × Refusal)) (s : State) (body : State → Result) : Result :=
  match checks with
  | [] => body s
  | (ok, r) :: rest => if ok then checkThen rest s body else refuse r

/-- Performing one thing after another inside an operation (R11 `call`). -/
def thenDo (o : Result) (next : State → Result) : Result :=
  match o with
  | .next s => next s
  | .fault r => .fault r
  | .refused r => .refused r

/-- `MemRead(space, addr, n)` (R51), the value zero-extended to 16 bits; `none` is outside the memory. -/
def memRead (c : Config) (space : Space) (addr n : Nat) : Option Half :=
  match space, n with
  | .glyphRom, 1 =>
    if addr < 84 then ((c.glyph[addr / 6]?).bind fun g => g[addr % 6]?).map (·.setWidth 16) else none
  | .tcRom, 2 => if addr ≤ c.nBuckets then c.tcTable[addr]? else none
  | .initRom, 1 => (c.initSeq[addr]?).map (·.setWidth 16)
  | _, _ => none

/-- One-byte reads at a list of addresses, in order; `none` as soon as one is outside the memory. -/
def memReadBytes (c : Config) (space : Space) : List Nat → Option (List Byte)
  | [] => some []
  | a :: rest =>
    match memRead c space a 1, memReadBytes c space rest with
    | some b, some bs => some (b.setWidth 8 :: bs)
    | _, _ => none

/-- `adc_event(e)` (R150). -/
def adcEvent (e : AdcEvent) (s : State) : State := { s with adcLog := s.adcLog ++ [e] }

/-- `RES <- v` (R21). -/
def writeRes (v : Half) (s : State) : State := { s with res := v, resWritten := true }

/-- `ADC_SEL <- src` (R29). -/
def setAdcSel (src : Source) (s : State) : State := { s with adcSel := some src }

/-- `SEQ <- q` (R22). -/
def setSeq (q : Seq) (s : State) : State := { s with seq := q }

end Sys2Proof.Machine
end

