-- ==== Sys2Proof/Machine/Flags.lean ====
section
/-! DEFINITION. The three one-bit flags of 10_state.md rule R28: `ADC_DONE` (persistent), `LEAD` (transient of
DSP.INT) and `BUSY` (derived). The block has no condition codes. -/

namespace Sys2Proof.Machine

/-- `BUSY`: an operation is running (R28). -/
def busy (s : State) : Bool := decide (s.seq ≠ .idle)

/-- `ADC_DONE <- b` (R28): cleared by ADC.SAMPLE, set by the converter agent. -/
def setAdcDone (b : Bool) (s : State) : State := { s with adcDone := b }

/-- The blanking test of DSP.INT (R126): `P ≠ 1` and `LEAD = 1` and `DG = 0`. -/
def blanks (place : Nat) (lead : Bool) (dg : Nat) : Bool := decide (place ≠ 1) && lead && decide (dg = 0)

/-- `LEAD` after the digit of one place (R126, R28): cleared by the first digit rendered as a digit. -/
def leadAfter (place : Nat) (lead : Bool) (dg : Nat) : Bool := if blanks place lead dg then lead else false

/-- The glyph of one place (R126): a space where the digit is blanked, else the digit. -/
def placeGlyph (place : Nat) (lead : Bool) (dg : Nat) : Nat := if blanks place lead dg then glyphSpace else dg

end Sys2Proof.Machine
end

