-- ==== Sys2Proof/Machine/Adc.lean ====
section
/-! DEFINITION. The converter interface and the acquisition operations (42_pipeline.md rules R150 to R156). An
operation that samples runs up to its wait; the wait is lifted only by the converter agent (R155, R191), and then the
operation is taken up again (log 5). -/

namespace Sys2Proof.Machine

/-- ADC.CFGI (R151): admitted always. -/
def execAdcCfgi (s : State) : Result :=
  .next (adcEvent (.cfg .internal) (setAdcSel .internal s))

/-- ADC.CFGT (R153): admitted always. -/
def execAdcCfgt (s : State) : Result :=
  .next (adcEvent (.cfg .thermocouple) (setAdcSel .thermocouple s))

/-- ADC.SAMPLE up to its wait (R154): clear a stale completion, then `START`. -/
def startConversion (s : State) : State := adcEvent .start (setAdcDone false s)

/-- ADC.SAMPLE after its wait (R154): take the sample, clear the completion flag, `TAKE(raw)`, write `RES`. -/
def takeSample (s : State) : State :=
  let raw := s.adcData
  let s := setAdcDone false s
  let s := adcEvent (.take raw) s
  writeRes (raw.setWidth 16) s

/-- The admission check of the sampling operations (R154, R156). -/
def configured (s : State) : Bool × Refusal := (decide (s.adcSel ≠ none), .adcUnconfigured)

/-- ADC.SAMPLE (R154): runs to its wait. -/
def execAdcSample (s : State) : Result :=
  checkThen [configured s] s fun s => .next (setSeq .sampleWait (startConversion s))

/-- ACQ.AVG (R156): `ACC <- 0`, then the first ADC.SAMPLE runs to its wait. -/
def execAcqAvg (s : State) : Result :=
  checkThen [configured s] s fun s => .next (setSeq (.avgWait 1 0) (startConversion s))

/-- ADC.SAMPLE taken up after its wait: it completes. -/
def resumeSample (s : State) : State := setSeq .idle (takeSample s)

/-- ACQ.AVG taken up after the wait of sample `cnt` (R156): accumulate, then the next sample or the average. -/
def resumeAvg (cnt acc : Nat) (s : State) : State :=
  let acc := acc + s.adcData.toNat
  let s := takeSample s
  if cnt < s.cfg.nSamples then setSeq (.avgWait (cnt + 1) acc) (startConversion s)
  else setSeq .idle (writeRes (BitVec.ofNat 16 (average s.cfg acc)) s)

/-- R191: a `START` has been logged and not yet answered. -/
def startOutstanding (s : State) : Bool := decide (s.adcLog.getLast? = some .start) && !s.adcDone

/-- The converter agent's answer to a `START` (R191): `ADC_DATA <- raw` and `ADC_DONE <- 1`, nothing else. -/
def answerWith (raw : Sample) (s : State) : State := setAdcDone true { s with adcData := raw }

/-- The step of the converter agent (R191): if a `START` is unanswered, answer it with
`draw_sample(ADC_SEL)`. -/
def converterStep (o : Oracle) (s : State) : State :=
  match s.adcSel with
  | some src => if startOutstanding s then answerWith (o.draw src s.tick) s else s
  | none => s

/-- The counter of free values advances (log 4). -/
def tickOn (s : State) : State := { s with tick := s.tick + 1 }

/-- One step of a wait (R155): with `ADC_DONE = 1` the operation is taken up again; otherwise the block holds, and
the converter agent acts if it is ready at this tick. -/
def waitStep (o : Oracle) (resume : State → State) (s : State) : Result :=
  if s.adcDone then .next (resume s)
  else if o.ready s.tick then .next (tickOn (converterStep o s))
  else .next (tickOn s)

end Sys2Proof.Machine
end

