-- ==== Sys2Proof/Machine/Bus.lean ====
section
/-! DEFINITION. The Bus Driver (40_bus_master.md). Each operation has a body, the pseudocode of its rule, which other
operations call in place (R11 `call`), and a meaning, which checks admission (R107) and runs the body. Hardware does
not check: it runs the body in any phase (R107, R181). -/

namespace Sys2Proof.Machine

/-- The body of BUS.INIT (R103). -/
def busInitBody (s : State) : State :=
  let s := emit .sclRel s
  let s := emit .sdaRel s
  setPhase .idle s

/-- The loop over `BITCNT` of BUS.WRITE (R104), for the bits still to send. -/
def sendBits (shreg : Byte) : List Nat → State → State
  | [], s => s
  | k :: rest, s =>
    let s := emit .sdaLow s
    let s := if byteBit shreg k then emit .sdaRel s else s
    let s := emit .sclRel s
    let s := emit .hold s
    let s := emit .sclLow s
    sendBits shreg rest s

/-- The body of BUS.WRITE (R104): eight bits, then the acknowledgment slot, in which nothing is read. -/
def busWriteBody (value : Byte) (s : State) : State :=
  let s := sendBits value bitOrder s
  let s := emit .sdaRel s
  let s := emit .sclRel s
  let s := emit .nop s
  emit .sclLow s

/-- `STARTCOND` (R105, part 1), without the change of `PHASE`. -/
def startCond (s : State) : State :=
  match s.cfg.startOrder with
  | .sdaThenScl => emit .sclLow (emit .sdaLow s)
  | .sclThenSda => emit .sdaLow (emit .sclLow s)

/-- The body of BUS.START (R105). -/
def busStartBody (addressByte : Byte) (s : State) : State :=
  let s := startCond s
  let s := setPhase .transmitting s
  busWriteBody addressByte s

/-- The body of BUS.STOP (R106). -/
def busStopBody (s : State) : State :=
  let s := emit .sdaLow s
  let s := emit .sclRel s
  let s := emit .sdaRel s
  setPhase .idle s

/-- BUS.INIT (R103): admitted in `UNINIT` and `IDLE`. -/
def execBusInit (s : State) : Result :=
  checkThen [(decide (s.phase ≠ .transmitting), .busPhase)] s fun s => .next (busInitBody s)

/-- BUS.START (R105): admitted in `IDLE`. -/
def execBusStart (addressByte : Byte) (s : State) : Result :=
  checkThen [(decide (s.phase = .idle), .busPhase)] s fun s => .next (busStartBody addressByte s)

/-- BUS.WRITE (R104): admitted in `TRANSMITTING`. -/
def execBusWrite (value : Byte) (s : State) : Result :=
  checkThen [(decide (s.phase = .transmitting), .busPhase)] s fun s => .next (busWriteBody value s)

/-- BUS.STOP (R106): admitted in `TRANSMITTING`. -/
def execBusStop (s : State) : Result :=
  checkThen [(decide (s.phase = .transmitting), .busPhase)] s fun s => .next (busStopBody s)

end Sys2Proof.Machine
end

