-- ==== Sys2Proof/Machine/Display.lean ====
section
/-! DEFINITION. The Display Driver (41_display.md): the transaction helper `TXN` (R120) and the five operations built
on it. Every DSP operation is admitted only in `PHASE = IDLE` (R107, R120). -/

namespace Sys2Proof.Machine

/-- The bytes of `TXN` after the address byte, each one BUS.WRITE (R120). -/
def writeAll : List Byte → State → State
  | [], s => s
  | b :: rest, s => writeAll rest (busWriteBody b s)

/-- `TXN(ctrl, bs)` (R120). -/
def txn (ctrl : Byte) (bs : List Byte) (s : State) : State :=
  let s := busStartBody s.cfg.dispAddrByte s
  let s := busWriteBody ctrl s
  let s := writeAll bs s
  busStopBody s

/-- The body of DSP.CURSOR (R123), on the 8-bit working column of R126. -/
def cursorBody (column : Byte) (page : BitVec 4) (s : State) : State :=
  txn ctrlCmd (cursorBytes s.cfg column page) s

/-- The six bytes of a glyph, `K` = 0 to 5 (R52, R125). -/
def glyphBytes (c : Config) (idx : Nat) : Option (List Byte) :=
  memReadBytes c .glyphRom ((List.range glyphW).map fun k => 6 * idx + k)

/-- The body of DSP.GLYPH (R125); a read outside GLYPHROM is ROM_INDEX (R51). -/
def glyphBody (idx : Nat) (s : State) : Result :=
  match glyphBytes s.cfg idx with
  | some bs => .next (txn ctrlData bs s)
  | none => refuse .romIndex

/-- One cursor-set/data-write pair of DSP.CLEAR (R124). -/
def clearCell (page column : Nat) (s : State) : State :=
  txn ctrlData [0x00] (cursorBody (BitVec.ofNat 8 column) (BitVec.ofNat 4 page) s)

/-- The inner loop of DSP.CLEAR over the columns of one page (R124). -/
def clearColumns (page : Nat) : List Nat → State → State
  | [], s => s
  | cl :: rest, s => clearColumns page rest (clearCell page cl s)

/-- The outer loop of DSP.CLEAR over the pages (R124). -/
def clearPages : List Nat → State → State
  | [], s => s
  | pg :: rest, s => clearPages rest (clearColumns pg (List.range nCols) s)

/-- `PUT(g)` of DSP.INT at the working column `cc` (R126); its caller advances the column by 6. -/
def putGlyph (g : Nat) (page : BitVec 4) (cc : Byte) (s : State) : Result :=
  glyphBody g (cursorBody cc page s)

/-- The working column after a `PUT`: one glyph width further (R126). -/
def advance (cc : Byte) : Byte := cc + 6

/-- The digit loop of DSP.INT over the places still to render, then the degree mark and the "C" (R126). -/
def putPlaces (page : BitVec 4) (v : Nat) : List Nat → Bool → Byte → State → Result
  | [], _, cc, s =>
    thenDo (putGlyph glyphDegree page cc s) fun s => putGlyph glyphLetterC page (advance cc) s
  | p :: rest, lead, cc, s =>
    let dg := v / p % 10
    thenDo (putGlyph (placeGlyph p lead dg) page cc s) fun s =>
      putPlaces page v rest (leadAfter p lead dg) (advance cc) s

/-- The body of DSP.INT (R126): the minus glyph first if the value is negative, then the digits of the magnitude. -/
def intBody (value : Half) (column : BitVec 7) (page : BitVec 4) (s : State) : Result :=
  let v := (signedValue value).natAbs
  let cc : Byte := column.setWidth 8
  if signedValue value < 0 then
    thenDo (putGlyph glyphMinus page cc s) fun s => putPlaces page v places true (advance cc) s
  else
    putPlaces page v places true cc s

/-- The admission check every DSP operation begins with (R107, R120). -/
def idlePhase (s : State) : Bool × Refusal := (decide (s.phase = .idle), .busPhase)

/-- DSP.INIT (R121). -/
def execDspInit (s : State) : Result :=
  checkThen [idlePhase s] s fun s => .next (txn ctrlCmd s.cfg.initSeq s)

/-- DSP.CURSOR (R123). -/
def execDspCursor (column : BitVec 7) (page : BitVec 4) (s : State) : Result :=
  checkThen [idlePhase s] s fun s => .next (cursorBody (column.setWidth 8) page s)

/-- DSP.CLEAR (R124). -/
def execDspClear (s : State) : Result :=
  checkThen [idlePhase s] s fun s => .next (clearPages (List.range nPages) s)

/-- DSP.GLYPH (R125). -/
def execDspGlyph (idx : BitVec 4) (s : State) : Result :=
  checkThen [idlePhase s, (decide (idx.toNat ≤ 13), .glyphIndex)] s fun s => glyphBody idx.toNat s

/-- DSP.INT (R126, R129). -/
def execDspInt (value : Half) (column : BitVec 7) (page : BitVec 4) (s : State) : Result :=
  checkThen [idlePhase s, (decide (signedValue value ≠ -32768), .valueRange),
    (decide (lastAnchor value column ≤ 127), .cursorRange)] s fun s => intBody value column page s

end Sys2Proof.Machine
end

