-- ==== Sys2Proof/Machine/Linear.lean ====
section
/-! DEFINITION. The two conversions to degrees Celsius (42_pipeline.md rules R157, R159, R160). -/

namespace Sys2Proof.Machine

/-- LIN.INT (R157): admitted always; writes `RES` only. -/
def execLinInt (avg : Sample) (s : State) : Result :=
  .next (writeRes (BitVec.ofInt 16 (linCelsius s.cfg avg.toNat)) s)

/-- The body of LIN.TC (R159): two word reads of TCROM, then the interpolation. -/
def linTcBody (avg : Half) (s : State) : Result :=
  let bk := tcBucket avg.toNat
  match memRead s.cfg .tcRom bk 2, memRead s.cfg .tcRom (bk + 1) 2 with
  | some t0, some t1 => .next (writeRes (BitVec.ofNat 16 (tcCelsius s.cfg.roundBias t0 t1 avg.toNat)) s)
  | _, _ => refuse .romIndex

/-- LIN.TC (R159, R160). -/
def execLinTc (avg : Half) (s : State) : Result :=
  checkThen [(decide (tcBucket avg.toNat < s.cfg.nBuckets), .bucketRange)] s fun s => linTcBody avg s

end Sys2Proof.Machine
end

