-- ==== Sys2Proof/Machine/Dispatch.lean ====
section
/-! DEFINITION. One arm per operation of the opcode map (30_encoding.md rule R72). -/

namespace Sys2Proof.Machine

def exec (i : Instr) (s : State) : Host.Outcome State Fault Refusal :=
  match i with
  | .busInit => Sys2Proof.Machine.execBusInit s
  | .busStart addressByte => Sys2Proof.Machine.execBusStart addressByte s
  | .busWrite value => Sys2Proof.Machine.execBusWrite value s
  | .busStop => Sys2Proof.Machine.execBusStop s
  | .dspInit => Sys2Proof.Machine.execDspInit s
  | .dspCursor column page => Sys2Proof.Machine.execDspCursor column page s
  | .dspClear => Sys2Proof.Machine.execDspClear s
  | .dspGlyph idx => Sys2Proof.Machine.execDspGlyph idx s
  | .dspInt value column page => Sys2Proof.Machine.execDspInt value column page s
  | .adcCfgi => Sys2Proof.Machine.execAdcCfgi s
  | .adcCfgt => Sys2Proof.Machine.execAdcCfgt s
  | .adcSample => Sys2Proof.Machine.execAdcSample s
  | .acqAvg => Sys2Proof.Machine.execAcqAvg s
  | .linInt avg => Sys2Proof.Machine.execLinInt avg s
  | .linTc avg => Sys2Proof.Machine.execLinTc avg s

end Sys2Proof.Machine
end

