-- ==== Sys2Proof/Machine/Port.lean ====
section
/-! DEFINITION. The command port (60_exceptions.md rule R192): what the block does with the host's next act when no
operation is running. -/

namespace Sys2Proof.Machine

/-- A command word is presented: decode it, then run the operation; a reserved word is RESERVED_CW (R73, R184). -/
def runWord (w : CmdWord) (s : State) : Result :=
  match decode w with
  | .ok i => exec i s
  | .error _ => refuse .reservedCw

/-- The host reads `RES` (R192): the value joins the sequence of values the host read (R215); but "reading `RES` before
an operation that writes it is refused by a model" (R35), as RES_UNWRITTEN of the closed list of R182. -/
def readRes (s : State) : Result :=
  if s.resWritten then .next { s with resReads := s.resReads ++ [s.res] } else refuse .resUnwritten

/-- The value the host read `back` reads before its last one. Where it has made no such read, the content of its own
variable is a free value (log 17). -/
def earlierRead (s : State) (back : Nat) : Half :=
  (s.resReads.reverse[back]?).getD (Config.hostUnread (back - s.resReads.length))

/-- `base` with a 16-bit value in its field `IMM` (R70, R82). -/
def withImm (base : CmdWord) (v : Half) : CmdWord := pack (opField base) (pgField base) (colField base) v

/-- The host's next act (log 6). -/
def hostAct (a : HostAct) (s : State) : Result :=
  match a with
  | .issue w => runWord w s
  | .readRes => readRes s
  | .issueRead base back => runWord (withImm base (earlierRead s back)) s

/-- One step with no operation running: the host's next act, or nothing to do (log 6). -/
def portStep (s : State) : Result :=
  match s.host with
  | [] => .next s
  | a :: rest => hostAct a { s with host := rest }

/-- One step of the machine with a well-formed configuration, by `SEQ` (R22). -/
def seqStep (o : Oracle) (s : State) : Result :=
  match s.seq with
  | .idle => portStep s
  | .sampleWait => waitStep o resumeSample s
  | .avgWait cnt acc => waitStep o (resumeAvg cnt acc) s

/-- The host presents `w` as its very next act and the block is free to take it: the act that `step` fetches. -/
def presentNext (w : CmdWord) (s : State) : State := { s with seq := .idle, host := .issue w :: s.host }

/-- The command word of a table word of `nbits` bits (R70). -/
def tableWord (nbits w : Nat) : CmdWord := BitVec.ofNat 32 (w % 2 ^ nbits)

end Sys2Proof.Machine
end

