-- ==== Sys2Proof/WellFormed.lean ====
section
/-! DEFINITION. Well-formedness: of a configuration (00_scope.md rule R9, checked before any step), and of an
operation against a configuration (the ranges of 70_reset_and_hazards.md rule R207, which depend on the operation and
the configuration alone). As syntax every `Instr` is well formed: its operands have exactly the widths of R71. -/

namespace Sys2Proof

/-- `COL_HI_BASE & 0x0F = 0` and `PAGE_BASE & 0x0F = 0` (R9). -/
def Config.basesOk (c : Config) : Bool :=
  decide (c.colHiBase &&& 0x0F = 0) && decide (c.pageBase &&& 0x0F = 0)

/-- `INIT_SEQ` non-empty (R9). -/
def Config.initSeqOk (c : Config) : Bool := !c.initSeq.isEmpty

/-- `GLYPH` has exactly 14 entries of exactly 6 bytes (R9). -/
def Config.glyphOk (c : Config) : Bool :=
  decide (c.glyph.length = nGlyph) && c.glyph.all fun g => decide (g.length = glyphW)

/-- `N_SAMPLES ≥ 1` (R9). -/
def Config.samplesOk (c : Config) : Bool := decide (1 ≤ c.nSamples)

/-- A list of words that never decreases. -/
def nonDecreasing : List Half → Bool
  | [] => true
  | [_] => true
  | a :: b :: rest => decide (a.toNat ≤ b.toNat) && nonDecreasing (b :: rest)

/-- `NBUCKETS ≥ 2` and `TC_TABLE` has exactly `NBUCKETS + 1` non-decreasing entries (R9). -/
def Config.tableOk (c : Config) : Bool :=
  decide (2 ≤ c.nBuckets) && decide (c.tcTable.length = c.nBuckets + 1) && nonDecreasing c.tcTable

/-- `0 ≤ ROUND_BIAS ≤ 9` (R9). -/
def Config.biasOk (c : Config) : Bool := decide (c.roundBias ≤ 9)

/-- `FRAC` is 0 to 15 (R8). -/
def Config.fracOk (c : Config) : Bool := decide (c.frac ≤ 15)

/-- The range condition on LIN.INT at one average: `|NUM| < 2^31` and the result is an `s16` (R9, R157). -/
def Config.linFits (c : Config) (avg : Nat) : Bool :=
  decide ((Machine.linNum c avg).natAbs < 2 ^ 31) &&
    decide (-32768 ≤ Machine.linCelsius c avg) && decide (Machine.linCelsius c avg ≤ 32767)

/-- The range condition for every average 0 to 1023 (R9), tested at the two ends: `NUM` and the result never
decrease in `avg`, so the ends decide (proved in Sys2Proof/Laws/WellFormed.lean, `linRangeOk_iff`). -/
def Config.linRangeOk (c : Config) : Bool := c.linFits 0 && c.linFits 1023

/-- R9. (`SCALE_Q ≥ 0` holds by its type.) -/
def Config.wf (c : Config) : Bool :=
  c.basesOk && c.initSeqOk && c.glyphOk && c.samplesOk && c.tableOk && c.biasOk && c.fracOk && c.linRangeOk

/-- Whether the operands of an operation lie in the ranges of R207: glyph index at most 13 (R125), a DSP.INT value
that has a negation and a field whose glyph anchors are on the display (R129), a bucket inside the table (R160). -/
def Instr.inRange (c : Config) : Instr → Bool
  | .dspGlyph idx => decide (idx.toNat ≤ 13)
  | .dspInt v col _ => decide (Machine.signedValue v ≠ -32768) && decide (Machine.lastAnchor v col ≤ 127)
  | .linTc avg => decide (Machine.tcBucket avg.toNat < c.nBuckets)
  | .busInit | .busStart _ | .busWrite _ | .busStop | .dspInit | .dspCursor _ _ | .dspClear
  | .adcCfgi | .adcCfgt | .adcSample | .acqAvg | .linInt _ => true

end Sys2Proof
end

