-- ==== Sys2Proof/Machine/Step.lean ====
section
/-! DEFINITION. One step of the machine. An ill-formed configuration is refused before anything else (00_scope.md
rule R9, BAD_CONFIG; log 10). -/

namespace Sys2Proof.Machine

/-- One step, with the converter agent's side given by an oracle (R152; log 4). -/
def stepWith (o : Oracle) (s : State) : Host.Outcome State Fault Refusal :=
  if s.cfg.wf then seqStep o s else refuse .badConfig

/-- One step of the machine: the oracle is the free one. -/
def step (s : State) : Host.Outcome State Fault Refusal := stepWith Oracle.free s

/-- `s` with the command word of a table row as the host's very next act and no operation running (log 6). -/
def State.withFetchWord (s : State) (nbits w : Nat) : State := presentNext (tableWord nbits w) s

end Sys2Proof.Machine
end

