-- ==== Sys2Proof/Machine/HostPrograms.lean ====
section
/-! DEFINITION. Programs of the host: the start-up sequence (70_reset_and_hazards.md rule R201) and the
pseudo-operations ACQUIRE and RENDER (30_encoding.md rule R82, 42_pipeline.md rule R163, 41_display.md rule R131).
They have no command word: each is a list of host acts, to stand in `State.host`. -/

namespace Sys2Proof.Machine

/-- The host presents an operation. -/
def issueOp (i : Instr) : HostAct := .issue (encode i)

/-- The start-up sequence (R201): BUS.INIT, DSP.INIT, DSP.CLEAR. -/
def startUp : List HostAct := [issueOp .busInit, issueOp .dspInit, issueOp .dspClear]

/-- One path of ACQUIRE (R163): configure, average, read the average, convert it, read the result. -/
def acquirePath (configure convert : Instr) : List HostAct :=
  [issueOp configure, issueOp .acqAvg, .readRes, .issueRead (encode convert) 0, .readRes]

/-- ACQUIRE (R163): the internal path, then the thermocouple path. Of its four reads of `RES`, the second is
`internalC` and the fourth is `thermocoupleC`. -/
def acquire : List HostAct := acquirePath .adcCfgi (.linInt 0) ++ acquirePath .adcCfgt (.linTc 0)

/-- RENDER of two values (R131), the internal one first, each at its anchor. -/
def render (c : Config) (internalC thermocoupleC : Half) : List HostAct :=
  [issueOp (.dspInt internalC c.posInt.column c.posInt.page),
    issueOp (.dspInt thermocoupleC c.posTc.column c.posTc.page)]

/-- RENDER of the two values an ACQUIRE just before it has read (R192: the host calls one, then the other). -/
def renderAcquired (c : Config) : List HostAct :=
  [.issueRead (encode (.dspInt 0 c.posInt.column c.posInt.page)) 2,
    .issueRead (encode (.dspInt 0 c.posTc.column c.posTc.page)) 0]

/-- One period of the host's loop (R192, R201): ACQUIRE, then RENDER. -/
def hostCycle (c : Config) : List HostAct := acquire ++ renderAcquired c

end Sys2Proof.Machine
end

