-- ==== Sys2Proof/Machine/Observe.lean ====
section
/-! DEFINITION. The observation functions: line levels (10_state.md rule R24), drive states and bus events of a list
of pin actions (40_bus_master.md rule R101), and the decoder that reads a trace back into transactions (R110).
Nothing in the block calls them: the block has no input from the bus (R102). -/

namespace Sys2Proof.Machine

/-! Lines and levels. -/

/-- The level of a line (R24): 0 (false) if the block or another device drives it low, otherwise 1: the pull-up
takes effect at once (R193). -/
def lineLevel (own : Drive) (slaveLow : Bool) : Bool := decide (own = .rel) && !slaveLow

/-- The master-view level of a line (R101): the level with no other device pulling. -/
def masterLevel (own : Drive) : Bool := lineLevel own false

/-- `lvl_sda` (R24), the slave's drive being a free value (R190, log 15). -/
def State.lvlSda (s : State) : Bool := lineLevel s.sdaDrv (Config.slaveDrive s.traceRev.length).1

/-- `lvl_scl` (R24). -/
def State.lvlScl (s : State) : Bool := lineLevel s.sclDrv (Config.slaveDrive s.traceRev.length).2

/-- The drive state after one action (R100). -/
def applyAction (d : Drives) (a : PinAction) : Drives :=
  match a with
  | .sdaLow => { d with sda := .low }
  | .sdaRel => { d with sda := .rel }
  | .sclLow => { d with scl := .low }
  | .sclRel => { d with scl := .rel }
  | .hold => d
  | .nop => d

/-- The level history (R101): the drive states after each action. -/
def levelHistory (d : Drives) : List PinAction → List Drives
  | [] => []
  | a :: rest => applyAction d a :: levelHistory (applyAction d a) rest

/-- The drive state at the end of a list of actions. -/
def replay (d : Drives) : List PinAction → Drives
  | [] => d
  | a :: rest => replay (applyAction d a) rest

/-! Edges and events (R101). -/

/-- The data edge an action makes, if it changes the data driver. -/
def edgeOf (d : Drives) (a : PinAction) : List DataEdge :=
  match a, d.sda with
  | .sdaLow, .rel => [⟨false, d.scl⟩]
  | .sdaRel, .low => [⟨true, d.scl⟩]
  | _, _ => []

/-- The data edges of a list of actions. -/
def dataEdges (d : Drives) : List PinAction → List DataEdge
  | [] => []
  | a :: rest => edgeOf d a ++ dataEdges (applyAction d a) rest

/-- The bus event an action makes, if any: a falling or rising data edge while the clock is released, or a rising
clock edge with the master-view data level. -/
def eventOf (d : Drives) (a : PinAction) : List BusEvent :=
  match a, d.sda, d.scl with
  | .sdaLow, .rel, .rel => [.startCond]
  | .sdaRel, .low, .rel => [.stopCond]
  | .sclRel, sda, .low => [.clk (masterLevel sda)]
  | _, _, _ => []

/-- The bus events of a list of actions, in order. -/
def busEvents (d : Drives) : List PinAction → List BusEvent
  | [] => []
  | a :: rest => eventOf d a ++ busEvents (applyAction d a) rest

/-! The decoder of R110. -/

/-- `b7·128 + ... + b0` of a group of bits. -/
def byteOfBits : List Bool → Nat
  | [] => 0
  | b :: rest => (if b then 2 ^ rest.length else 0) + byteOfBits rest

/-- Cutting the bits of a transaction into groups of nine, eight bits of a byte and an acknowledgment. -/
def cutGroups : List Bool → List (Byte × Bool)
  | b7 :: b6 :: b5 :: b4 :: b3 :: b2 :: b1 :: b0 :: a :: rest =>
    (BitVec.ofNat 8 (byteOfBits [b7, b6, b5, b4, b3, b2, b1, b0]), a) :: cutGroups rest
  | _ => []

/-- A transaction closes (R110): the clock rise of the stop itself is no data bit. -/
def closeTxn (bits : List Bool) : Except DecodeFail Txn :=
  if bits.getLast? ≠ some false then .error .badStop
  else
    let bits := bits.dropLast
    if bits.length % 9 ≠ 0 then .error .partialByte
    else .ok ⟨(cutGroups bits).map (·.1), (cutGroups bits).map (·.2)⟩

/-- One event of the decoder's loop (R110). -/
def decodeEvent (d : DecoderState) (e : BusEvent) : Except DecodeFail DecoderState :=
  match e with
  | .startCond => if d.isOpen then .error .repeatedStart else .ok { d with isOpen := true, bits := [] }
  | .clk b => .ok (if d.isOpen then { d with bits := d.bits ++ [b] } else d)
  | .stopCond =>
    if d.isOpen then
      match closeTxn d.bits with
      | .ok t => .ok ⟨false, d.bits, d.out ++ [t]⟩
      | .error f => .error f
    else .ok d

/-- The decoder's loop over the events. -/
def decodeEvents (d : DecoderState) : List BusEvent → Except DecodeFail DecoderState
  | [] => .ok d
  | e :: rest =>
    match decodeEvent d e with
    | .ok d' => decodeEvents d' rest
    | .error f => .error f

/-- Where the decoder starts. -/
def decoderStart : DecoderState := ⟨false, [], []⟩

/-- `Decode(s0, actions)` with everything it reports: the finished transactions in `out`, and, where a transaction
is left open, its bits so far ("report it separately", R110). -/
def decodeTrace (d : Drives) (actions : List PinAction) : Except DecodeFail DecoderState :=
  decodeEvents decoderStart (busEvents d actions)

/-- `Decode(s0, actions)` (R110): the list of transactions. -/
def busDecode (d : Drives) (actions : List PinAction) : Except DecodeFail (List Txn) :=
  (decodeTrace d actions).map (·.out)

/-- The transaction `S b0 b1 ... bn P` (R12, R75), its acknowledgment bits all 1 in the master view (R110). -/
def wire (bytes : List Byte) : Txn := ⟨bytes, bytes.map fun _ => true⟩

end Sys2Proof.Machine
end

