-- ==== Sys2Proof/Machine/RefDisplay.lean ====
section
/-! DEFINITION. The OPTIONAL reference display slave (20_memory.md rule R60), an observer of the transactions decoded
from the trace. It is not part of the block, the block never reads it, and a claim about the block must not depend on
it: its picture (log 11) and its side of the lines (log 18). -/

namespace Sys2Proof.Machine

/-! The frame buffer. -/

/-- The form every memory keeps: addresses strictly rising. No value is what an unlisted address reads as, so no
entry can repeat it. -/
def Memory.wf : Memory → Bool
  | [] => true
  | [_] => true
  | a :: b :: rest => decide (a.1 < b.1) && Memory.wf (b :: rest)

/-- The byte at an address; an unlisted address has no known value (R35). -/
def memLookup (m : Memory) (addr : Nat) : Option Byte :=
  match m with
  | [] => none
  | (a, b) :: rest => if a = addr then some b else memLookup rest addr

/-- Storing a byte, at its place in the order. -/
def memStore (m : Memory) (addr : Nat) (b : Byte) : Memory :=
  match m with
  | [] => [(addr, b)]
  | (a, x) :: rest =>
    if addr < a then (addr, b) :: (a, x) :: rest
    else if a = addr then (addr, b) :: rest
    else (a, x) :: memStore rest addr b

/-- The address of the byte at (column, page) of the display RAM (R59). -/
def cellAddr (col : BitVec 7) (page : BitVec 4) : Nat := 128 * page.toNat + col.toNat

/-- `ram[page][col]`, if it is known. -/
def Display.pixel (d : Display) (col : BitVec 7) (page : BitVec 4) : Option Byte :=
  memLookup d.ram (cellAddr col page)

/-! Consuming transactions. -/

/-- A command byte (R60), the three cursor commands by their high nibble. -/
def displayCommand (c : Config) (b : Byte) (d : Display) : Except DisplayRefusal Display :=
  if b &&& 0xF0 = 0x00 then
    .ok { d with col := (d.col &&& 0x70) ||| (b &&& 0x0F).setWidth 7, pastEnd := false }
  else if b &&& 0xF0 = c.colHiBase then
    .ok { d with col := ((b &&& 0x07).setWidth 7 <<< 4) ||| (d.col &&& 0x0F), pastEnd := false }
  else if b &&& 0xF0 = c.pageBase then
    .ok { d with page := (b &&& 0x0F).setWidth 4, pastEnd := false }
  else .error .unknownCommand

/-- A data byte (R60): stored at the cursor, which moves one column on; none is taken past column 127. -/
def displayData (b : Byte) (d : Display) : Except DisplayRefusal Display :=
  if d.pastEnd then .error .pastLastColumn
  else
    .ok { d with
      ram := memStore d.ram (cellAddr d.col d.page) b
      col := if d.col.toNat < 127 then d.col + 1 else d.col
      pastEnd := decide (d.col.toNat = 127) }

/-- The bytes of a transaction after its control byte, in order. -/
def displayBytes (f : Byte → Display → Except DisplayRefusal Display) :
    List Byte → Display → Except DisplayRefusal Display
  | [], d => .ok d
  | b :: rest, d =>
    match f b d with
    | .ok d' => displayBytes f rest d'
    | .error e => .error e

/-- The bytes of a transaction addressed to the display: the control byte sets the mode (R76, R60). -/
def displayPayload (c : Config) (bytes : List Byte) (d : Display) : Except DisplayRefusal Display :=
  match bytes with
  | [] => .ok d
  | ctrl :: payload =>
    if ctrl = ctrlCmd then
      if payload = c.initSeq then .ok { d with mode := .command }
      else displayBytes (displayCommand c) payload { d with mode := .command }
    else if ctrl = ctrlData then displayBytes displayData payload { d with mode := .data }
    else .error .unknownControl

/-- One transaction (R60): one whose address byte is not `DISP_ADDR_BYTE` is ignored. -/
def displayTxn (c : Config) (t : Txn) (d : Display) : Except DisplayRefusal Display :=
  match t.bytes with
  | [] => .ok d
  | address :: bytes => if address = c.dispAddrByte then displayPayload c bytes d else .ok d

/-- A list of transactions, in order. -/
def displayTxns (c : Config) : List Txn → Display → Except DisplayRefusal Display
  | [], d => .ok d
  | t :: rest, d =>
    match displayTxn c t d with
    | .ok d' => displayTxns c rest d'
    | .error e => .error e

/-! The lines (R60, R190): the slave acknowledges every byte or none, and never drives the clock line. -/

/-- What the slave sees of one bus event: a start condition opens a transaction, a stop condition closes it, and each
clock rise in an open one begins a pulse (R74, R75). -/
def slaveEvent (l : SlaveLine) (e : BusEvent) : SlaveLine :=
  match e with
  | .startCond => { l with isOpen := true, pulses := 0 }
  | .stopCond => { l with isOpen := false }
  | .clk _ => if l.isOpen then { l with pulses := l.pulses + 1 } else l

/-- What the slave sees of one pin action. -/
def slaveSees (l : SlaveLine) (a : PinAction) : SlaveLine :=
  { (eventOf l.drives a).foldl slaveEvent l with drives := applyAction l.drives a }

/-- What the slave has seen of the lines after a list of actions, from a drive state with no transaction open. -/
def slaveWatch (d : Drives) (acts : List PinAction) : SlaveLine := acts.foldl slaveSees ⟨d, false, 0⟩

/-- The ninth clock of a byte: the clock is released, for a pulse whose number is a multiple of nine (R74). -/
def ninthClock (l : SlaveLine) : Bool :=
  l.isOpen && decide (l.drives.scl = .rel) && decide (0 < l.pulses) && decide (l.pulses % 9 = 0)

/-- `(slv_sda, slv_scl)` of the reference slave, true meaning LOW: "`slv_sda = LOW` during the ninth clock" of every
byte if it acknowledges, never otherwise, and "it never drives the clock line" (R60; log 18). -/
def slaveDrives (acks : Bool) (l : SlaveLine) : Bool × Bool := (acks && ninthClock l, false)

/-- The levels (data, clock) of the lines with the reference slave on them (R24). -/
def slaveLevels (acks : Bool) (l : SlaveLine) : Bool × Bool :=
  (lineLevel l.drives.sda (slaveDrives acks l).1, lineLevel l.drives.scl (slaveDrives acks l).2)

/-- The data levels at the rising clock edges of a list of actions, with the reference slave on the lines. -/
def sampledLevels (acks : Bool) (l : SlaveLine) : List PinAction → List Bool
  | [] => []
  | a :: rest =>
    let l' := slaveSees l a
    (if l.drives.scl = .low ∧ l'.drives.scl = .rel then [(slaveLevels acks l').1] else [])
      ++ sampledLevels acks l' rest

end Sys2Proof.Machine
end

