-- ==== Sys2Proof/Machine/ActionLists.lean ====
section
/-! DEFINITION. The pin actions of each Bus and Display operation as a list, "a function of its operand and
`START_ORDER` alone" (40_bus_master.md rule R102): the closed form of the pseudocode of R103 to R106 and R120 to R126,
in which claims about TRACE are stated. The meanings do not use it. -/

namespace Sys2Proof.Machine

/-- The actions of one data bit (R104, R74). -/
def bitActions (b : Bool) : List PinAction :=
  [.sdaLow] ++ (if b then [.sdaRel] else []) ++ [.sclRel, .hold, .sclLow]

/-- The actions of one byte, eight bits and the acknowledgment slot (R104). -/
def byteActions (v : Byte) : List PinAction :=
  bitOrder.flatMap (fun k => bitActions (byteBit v k)) ++ [.sdaRel, .sclRel, .nop, .sclLow]

/-- The actions of `STARTCOND` (R105). -/
def startCondActions (o : StartOrder) : List PinAction :=
  match o with
  | .sdaThenScl => [.sdaLow, .sclLow]
  | .sclThenSda => [.sclLow, .sdaLow]

/-- The actions of BUS.START (R105). -/
def startActions (o : StartOrder) (addressByte : Byte) : List PinAction :=
  startCondActions o ++ byteActions addressByte

/-- The actions of BUS.STOP (R106). -/
def stopActions : List PinAction := [.sdaLow, .sclRel, .sdaRel]

/-- The bytes on the wire of `TXN(ctrl, bs)`: `S A ctrl b1 ... bn P` (R120, R75). -/
def txnBytes (c : Config) (ctrl : Byte) (bs : List Byte) : List Byte := c.dispAddrByte :: ctrl :: bs

/-- The actions of a transaction of the given bytes, the first of them the address byte (R75, R120). -/
def wireActions (o : StartOrder) (bytes : List Byte) : List PinAction :=
  startCondActions o ++ bytes.flatMap byteActions ++ stopActions

/-- The bytes of the transaction of DSP.CURSOR (R123). -/
def cursorTxn (c : Config) (column : Byte) (page : BitVec 4) : List Byte :=
  txnBytes c ctrlCmd (cursorBytes c column page)

/-- The six bytes `GLYPH[idx][0..5]` (R52); empty outside the table. -/
def glyphRow (c : Config) (idx : Nat) : List Byte := (c.glyph[idx]?).getD []

/-- The bytes of the transaction of DSP.GLYPH (R125). -/
def glyphTxn (c : Config) (idx : Nat) : List Byte := txnBytes c ctrlData (glyphRow c idx)

/-- The transactions of DSP.CLEAR (R124): a cursor and a zero byte for every (page, column), page outer. -/
def clearTxns (c : Config) : List (List Byte) :=
  (List.range nPages).flatMap fun pg => (List.range nCols).flatMap fun cl =>
    [cursorTxn c (BitVec.ofNat 8 cl) (BitVec.ofNat 4 pg), txnBytes c ctrlData [0x00]]

/-- The transactions of a list of glyphs rendered from a column on, each with its cursor, 6 columns apart (R126,
R128). -/
def fieldTxns (c : Config) (page : BitVec 4) : Byte → List Nat → List (List Byte)
  | _, [] => []
  | cc, g :: rest => cursorTxn c cc page :: glyphTxn c g :: fieldTxns c page (cc + 6) rest

/-- The state after a list of actions, with the drive state and phase they leave: nothing else changes. -/
def afterActions (acts : List PinAction) (sda scl : Drive) (p : Phase) (s : State) : State :=
  { s with traceRev := acts.reverse ++ s.traceRev, sdaDrv := sda, sclDrv := scl, phase := p }

end Sys2Proof.Machine
end

