-- ==== Sys2Proof/Safety.lean ====
section
/-! DEFINITION. What a run may be said to have done: the invariants between operations (10_state.md rule R36,
40_bus_master.md rule R109, 42_pipeline.md rule R150) and a run that has ended well (70_reset_and_hazards.md rule
R215), in the terms claims use. -/

namespace Sys2Proof.Machine

/-! Admission. -/

/-- The table of R107: which `PHASE` admits an operation. -/
def phaseAdmits (i : Instr) (p : Phase) : Bool :=
  match i with
  | .busInit => decide (p = .uninit ∨ p = .idle)
  | .busStart _ | .dspInit | .dspCursor _ _ | .dspClear | .dspGlyph _ | .dspInt _ _ _ => decide (p = .idle)
  | .busWrite _ | .busStop => decide (p = .transmitting)
  | .adcCfgi | .adcCfgt | .adcSample | .acqAvg | .linInt _ | .linTc _ => true

/-- The column "next PHASE" of R107. -/
def phaseAfter (i : Instr) (p : Phase) : Phase :=
  match i with
  | .busInit | .busStop | .dspInit | .dspCursor _ _ | .dspClear | .dspGlyph _ | .dspInt _ _ _ => .idle
  | .busStart _ | .busWrite _ => .transmitting
  | .adcCfgi | .adcCfgt | .adcSample | .acqAvg | .linInt _ | .linTc _ => p

/-- The conditions of R182 that an operation must meet, in the fixed order of R184 after RESERVED_CW. -/
def admissionConditions (i : Instr) (s : State) : List (Bool × Refusal) :=
  [ (phaseAdmits i s.phase, .busPhase),
    (match i with | .dspGlyph idx => decide (idx.toNat ≤ 13) | _ => true, .glyphIndex),
    (match i with | .dspInt v _ _ => decide (v.toInt ≠ -32768) | _ => true, .valueRange),
    (match i with
      | .dspInt v col _ => decide (col.toNat + 6 * ((if v.toInt < 0 then 7 else 6) - 1) ≤ 127)
      | _ => true, .cursorRange),
    (match i with | .adcSample | .acqAvg => decide (s.adcSel ≠ none) | _ => true, .adcUnconfigured),
    (match i with | .linTc avg => decide (avg.toNat / 512 < s.cfg.nBuckets) | _ => true, .bucketRange) ]

/-- R184: of the violated conditions, "the first that applies". -/
def firstRefusal (i : Instr) (s : State) : Option Refusal :=
  ((admissionConditions i s).find? fun c => !c.1).map (·.2)

/-! Bus invariants. -/

/-- R36: the drive states that go with `PHASE` when no operation is refused. `UNINIT` says nothing. -/
def PhaseDrives (s : State) : Prop :=
  match s.phase with
  | .uninit => True
  | .idle => s.drives = ⟨.rel, .rel⟩
  | .transmitting => s.drives = ⟨.rel, .low⟩

/-- Where a scan of bus events stands: outside a transaction, or inside one after so many `CLK` events. -/
inductive Framing
  | closed
  | opened (clks : Nat)
  deriving DecidableEq, Repr

/-- One event of the scan of R109 (b) and (c): `START_COND` and `STOP_COND` alternate, starting with `START_COND`,
and a transaction has `9·k + 1` `CLK` events with `k ≥ 1`; `none` is a violation. -/
def frameEvent (f : Framing) (e : BusEvent) : Option Framing :=
  match f, e with
  | .closed, .startCond => some (.opened 0)
  | .closed, .clk _ => some .closed
  | .closed, .stopCond => none
  | .opened _, .startCond => none
  | .opened n, .clk _ => some (.opened (n + 1))
  | .opened n, .stopCond => if n % 9 = 1 ∧ 10 ≤ n then some .closed else none

/-- The scan over a list of events. -/
def frameEvents (f : Framing) : List BusEvent → Option Framing
  | [] => some f
  | e :: rest => (frameEvent f e).bind fun f' => frameEvents f' rest

/-- The framing that goes with `PHASE` between operations: inside a transaction a whole number of bytes, at least
one, has been sent. -/
def FramingOf (s : State) (f : Framing) : Prop :=
  match s.phase with
  | .uninit => f = .closed ∧ s.drives = ⟨.rel, .rel⟩
  | .idle => f = .closed
  | .transmitting => ∃ k, 1 ≤ k ∧ f = .opened (9 * k)

/-- R109 as an invariant of a state: with `START_ORDER = SDA_THEN_SCL`, the whole `TRACE` read from the released
lines is legally framed, ends in the drivers' state, and that state fits `PHASE` (R36). -/
def LegalBus (s : State) : Prop :=
  s.cfg.startOrder = .sdaThenScl ∧ PhaseDrives s ∧ replay ⟨.rel, .rel⟩ s.trace = s.drives ∧
    ∃ f, frameEvents .closed (busEvents ⟨.rel, .rel⟩ s.trace) = some f ∧ FramingOf s f

/-- R110: the decoder does not fail on `TRACE`; a transaction is open exactly in `TRANSMITTING`, and then its bits so
far are whole groups of nine. -/
def TraceDecodes (s : State) : Prop :=
  ∃ d, decodeTrace ⟨.rel, .rel⟩ s.trace = .ok d ∧ d.isOpen = decide (s.phase = .transmitting) ∧
    (d.isOpen = true → d.bits.length % 9 = 0)

/-- R150, R209: a converter log in which every `START` is directly followed by its `TAKE`, every `TAKE` directly
follows a `START`, and `unanswered` says whether the log ends with a `START` whose `TAKE` is still to come. -/
def pairedLog (unanswered : Bool) : List AdcEvent → Bool
  | [] => !unanswered
  | [.start] => unanswered
  | .start :: .take _ :: rest => pairedLog unanswered rest
  | .cfg _ :: rest => pairedLog unanswered rest
  | _ => false

/-- R150, R154: one conversion at a time. The log pairs up, a conversion is in flight exactly while an operation
waits (`BUSY`), and the wait is for a configured source. -/
def OneConversion (s : State) : Prop :=
  pairedLog (busy s) s.adcLog = true ∧ (busy s = true → s.adcSel ≠ none)

/-- R30, R156: while ACQ.AVG waits for sample `cnt` the accumulator holds at most `cnt − 1` samples of at most 1023
each, and `cnt` is one of the samples to take. -/
def AvgBounded (s : State) : Prop :=
  ∀ cnt acc, s.seq = .avgWait cnt acc → 1 ≤ cnt ∧ cnt ≤ s.cfg.nSamples ∧ acc ≤ (cnt - 1) * 1023

/-! Independence. -/

/-- An outcome with its next state changed. -/
def mapNext (f : State → State) (r : Result) : Result :=
  match r with
  | .next s => .next (f s)
  | .fault x => .fault x
  | .refused x => .refused x

/-- A state with the Bus Driver's registers and history replaced (R162). -/
def withBus (sda scl : Drive) (p : Phase) (traceRev : List PinAction) (s : State) : State :=
  { s with sdaDrv := sda, sclDrv := scl, phase := p, traceRev := traceRev }

/-- A state with the pipeline's registers and history, and `RES`, replaced. -/
def withPipeline (sel : Option Source) (done : Bool) (data : Sample) (log : List AdcEvent) (res : Half)
    (s : State) : State :=
  { s with adcSel := sel, adcDone := done, adcData := data, adcLog := log, res := res }

/-- The operations of the Acquisition and Calibration Pipeline (R1, file 42). -/
def isPipeline : Instr → Bool
  | .adcCfgi | .adcCfgt | .adcSample | .acqAvg | .linInt _ | .linTc _ => true
  | .busInit | .busStart _ | .busWrite _ | .busStop | .dspInit | .dspCursor _ _ | .dspClear | .dspGlyph _
  | .dspInt _ _ _ => false

/-- The operations of the Bus Driver (R1, file 40). -/
def isBus : Instr → Bool
  | .busInit | .busStart _ | .busWrite _ | .busStop => true
  | .dspInit | .dspCursor _ _ | .dspClear | .dspGlyph _ | .dspInt _ _ _
  | .adcCfgi | .adcCfgt | .adcSample | .acqAvg | .linInt _ | .linTc _ => false

/-- The two operations that write `RES` when they are executed (R21); the other two of R21 write it after a wait. -/
def isConversion : Instr → Bool
  | .linInt _ | .linTc _ => true
  | .busInit | .busStart _ | .busWrite _ | .busStop | .dspInit | .dspCursor _ _ | .dspClear | .dspGlyph _
  | .dspInt _ _ _ | .adcCfgi | .adcCfgt | .adcSample | .acqAvg => false

/-! Runs. -/

/-- A scripted converter (R152: "a test can script the two sources"): each sample answers the wait, and the next step
takes the operation up again. -/
def feedSamples : List Sample → State → Result
  | [], s => .next s
  | raw :: rest, s => thenDo (step (answerWith raw s)) (feedSamples rest)

/-- R215: a run has ended well: the last operation has completed, no transaction is open, no conversion is in
flight, and the host has no further act. (That nothing was refused is that the run has this state.) -/
def EndedWell (s : State) : Prop :=
  busy s = false ∧ s.phase = .idle ∧ s.drives = ⟨.rel, .rel⟩ ∧ startOutstanding s = false ∧ s.host = []

/-- R215: the observable result of a run. -/
def observable (s : State) : List PinAction × List AdcEvent × List Half := (s.trace, s.adcLog, s.resReads)

/-- The premise a claim of termination names (R155, R191): the converter agent always becomes ready again. -/
def Fair (o : Oracle) : Prop := ∀ n, ∃ m, n ≤ m ∧ o.ready m = true

/-- The machine with the converter agent's side given by an oracle (R152); `Sys2Proof.core` is the one with the free
oracle. -/
def coreWith (o : Oracle) : Host.Core :=
  { State := State, Fault := Fault, Refusal := Refusal, step := stepWith o, reset := State.reset }

/-! The picture. -/

/-- The premise that the three kinds of cursor command are told apart by the reference display: their high nibbles
differ, and no cursor command list is the initialization sequence (R60, R77). -/
def CursorCommandsDistinct (c : Config) : Prop :=
  c.colHiBase ≠ 0 ∧ c.pageBase ≠ 0 ∧ c.colHiBase ≠ c.pageBase ∧
    ∀ (column : Byte) (page : BitVec 4), cursorBytes c column page ≠ c.initSeq

end Sys2Proof.Machine
end

