-- ==== Sys2Proof/Certificates/Slice0/Obligations.lean ====
section
/-! DEFINITION. The statements for the provers, from the numbered rules of spec/. -/

open Sys2Proof Sys2Proof.Machine

/-! ## Encoding (30_encoding.md) -/

/-- Every operation, with every operand it can carry, is read back from its command word (R70, R71, R72). -/
def Obligations.DecodeInvertsEncode : Prop :=
  ∀ i : Instr, decode (encode i) = .ok i

/-- An operation has one command word: a word that decodes is the word of what it decodes to (R72, R73). -/
def Obligations.EncodeInvertsDecode : Prop :=
  ∀ (w : CmdWord) (i : Instr), decode w = .ok i → encode i = w

/-- R72: a command word selects the row with `w & mask = match`, it decodes to that row's operation, and at most one
row matches. -/
def Obligations.OpcodeMapSelectsOperation : Prop :=
  (∀ (w : CmdWord) (i : Instr), decode w = .ok i → selectsRow w i) ∧
  (∀ (w : CmdWord) (i : Instr), selectsRow w i → ∃ j, decode w = .ok j ∧ rowMatch j = rowMatch i) ∧
  (∀ (w : CmdWord) (i j : Instr), selectsRow w i → selectsRow w j → rowMatch i = rowMatch j)

/-- Command words written out in V35 and V37 of 95_test_vectors.md, at least one of each family, and one that V37
reserves (R70, R71). -/
def Obligations.SpecCommandWordsDecode : Prop :=
  decode 0x08000000 = .ok .busInit ∧ decode 0x180000A5 = .ok (.busWrite 0xA5) ∧
  decode 0x49250000 = .ok (.dspCursor 37 2) ∧ decode 0x6000FFFB = .ok (.dspInt (BitVec.ofInt 16 (-5)) 0 0) ∧
  decode 0x618A04D2 = .ok (.dspInt 1234 10 3) ∧ decode 0x5800000E = .ok (.dspGlyph 14) ∧
  decode 0x90000000 = .ok .adcSample ∧ decode 0xA000012C = .ok (.linInt 300) ∧
  decode 0xA8001200 = .ok (.linTc 4608) ∧ decode 0x67FFFFFF = .ok (.dspInt (BitVec.ofInt 16 (-1)) 127 15) ∧
  decode 0x60000000 = .ok (.dspInt 0 0 0) ∧ ∀ i, decode 0x6FFFFFFF ≠ .ok i

/-- R73: a word that matches no row is refused as RESERVED_CW when it is presented; that covers the listed `OP`
values, and the word zero. -/
def Obligations.ReservedWordIsRefused : Prop :=
  (∀ (s : State) (w : CmdWord) (rest : List HostAct), s.cfg.wf = true → s.seq = .idle → s.host = .issue w :: rest →
    (∀ i, ¬ selectsRow w i) → step s = .refused .reservedCw) ∧
  (∀ w : CmdWord, opField w ∈ [0x00, 0x05, 0x06, 0x07, 0x0D, 0x0E, 0x0F] ∨ 0x16 ≤ (opField w).toNat →
    ∀ i, ¬ selectsRow w i)

/-! ## The step and the command port -/

/-- A step runs the decoded operation: the word the host presents next, when no operation is running, is taken off the
port and executed, so is a word whose `IMM` is a value read earlier, and the word that `withFetchWord` places is
executed by the very next step. (The port as a list of host acts is the model's, log 6; where the named read was never
made its value is a free value, log 17.) -/
def Obligations.PresentedWordIsExecuted : Prop :=
  (∀ (s : State) (w : CmdWord) (rest : List HostAct) (i : Instr), s.cfg.wf = true → s.seq = .idle →
    s.host = .issue w :: rest → decode w = .ok i → step s = exec i { s with host := rest }) ∧
  (∀ (s : State) (base : CmdWord) (back : Nat) (v : Half) (rest : List HostAct) (i : Instr), s.cfg.wf = true →
    s.seq = .idle → s.host = .issueRead base back :: rest →
    v = (s.resReads.reverse[back]?).getD (Config.hostUnread (back - s.resReads.length)) →
    decode (pack (opField base) (pgField base) (colField base) v) = .ok i → step s = exec i { s with host := rest }) ∧
  (∀ (s : State) (w : CmdWord) (i : Instr), s.cfg.wf = true → decode w = .ok i →
    step (s.withFetchWord 32 w.toNat) = exec i { s with seq := .idle })

/-- R9, R182: no step is taken from an ill-formed configuration. (The spec checks once, before the first step; that
every step checks again is the model's, log 10.) -/
def Obligations.BadConfigIsRefused : Prop :=
  ∀ s : State, s.cfg.wf = false → step s = .refused .badConfig

/-- R9: the check of a configuration is the conjunction of R9's conditions (with R8's range of `FRAC`), and a block
built with one that fails it is refused. -/
def Obligations.WellFormedConfigIsEveryCondition : Prop :=
  (∀ c : Config, c.wf = false → step (State.resetWith c) = .refused .badConfig) ∧
  ∀ c : Config, c.wf = true ↔
    (c.colHiBase &&& 0x0F = 0 ∧ c.pageBase &&& 0x0F = 0 ∧ c.initSeq ≠ [] ∧
      (c.glyph.length = 14 ∧ ∀ g ∈ c.glyph, g.length = 6) ∧ 1 ≤ c.nSamples ∧ 2 ≤ c.nBuckets ∧
      (c.tcTable.length = c.nBuckets + 1 ∧
        ∀ i a b, c.tcTable[i]? = some a → c.tcTable[i + 1]? = some b → a.toNat ≤ b.toNat) ∧
      c.roundBias ≤ 9 ∧ c.frac ≤ 15 ∧
      ∀ avg : Nat, avg ≤ 1023 →
        ((avg * c.scaleQ.toNat : Nat) - c.offsetQ.toInt).natAbs < 2 ^ 31 ∧
        -32768 ≤ Int.tdiv ((avg * c.scaleQ.toNat : Nat) - c.offsetQ.toInt) (2 ^ c.frac) ∧
        Int.tdiv ((avg * c.scaleQ.toNat : Nat) - c.offsetQ.toInt) (2 ^ c.frac) ≤ 32767)

/-- R192, R35, R182, R215: the host's read of `RES` joins the values it has read, and changes nothing else; before any
operation has written `RES` it is refused. (That the written state is a flag is the model's, log 7.) -/
def Obligations.HostReadOfResult : Prop :=
  ∀ (s : State) (rest : List HostAct), s.cfg.wf = true → s.seq = .idle → s.host = .readRes :: rest →
    (s.resWritten = true → step s = .next { s with host := rest, resReads := s.resReads ++ [s.res] }) ∧
    (s.resWritten = false → step s = .refused .resUnwritten)

/-! ## Reset (10_state.md R35, 70_reset_and_hazards.md R200) -/

/-- The values R35 gives for reset, for a block built with any configuration. (The released pins are R35's value from
general knowledge, log 3.) -/
def Obligations.ResetValues : Prop :=
  ∀ c : Config, (State.resetWith c).drives = ⟨.rel, .rel⟩ ∧ (State.resetWith c).phase = .uninit ∧
    (State.resetWith c).adcSel = none ∧ (State.resetWith c).adcDone = false ∧ (State.resetWith c).seq = .idle ∧
    busy (State.resetWith c) = false ∧ (State.resetWith c).trace = [] ∧ (State.resetWith c).adcLog = [] ∧
    (State.resetWith c).cfg = c

/-- Reset meets the invariants that every step keeps (R35, R200). (That the empty trace is legally framed rests on the
released reset pins, log 3.) -/
def Obligations.ResetMeetsInvariants : Prop :=
  ∀ c : Config, c.startOrder = .sdaThenScl →
    PhaseDrives (State.resetWith c) ∧ LegalBus (State.resetWith c) ∧ TraceDecodes (State.resetWith c) ∧
    OneConversion (State.resetWith c) ∧ AvgBounded (State.resetWith c)

/-! ## Lines and read-only memories (10_state.md R24, 20_memory.md R51) -/

/-- R24: a line is low exactly when the block or another device drives it low; the other device's drive is a free value
(log 15). -/
def Obligations.LineIsLowExactlyWhenDriven : Prop :=
  ∀ s : State,
    (s.lvlSda = false ↔ s.sdaDrv = .low ∨ (Config.slaveDrive s.traceRev.length).1 = true) ∧
    (s.lvlScl = false ↔ s.sclDrv = .low ∨ (Config.slaveDrive s.traceRev.length).2 = true)

/-- R51: `MemRead` of the three read-only spaces answers in exactly the range of each, and with the table's entry. -/
def Obligations.RomReadsInExactlyItsRange : Prop :=
  ∀ c : Config, c.wf = true →
    (∀ addr < 84, ∃ g b, c.glyph[addr / 6]? = some g ∧ g[addr % 6]? = some b ∧
      memRead c .glyphRom addr 1 = some (b.setWidth 16)) ∧
    (∀ addr ≤ c.nBuckets, ∃ t, c.tcTable[addr]? = some t ∧ memRead c .tcRom addr 2 = some t) ∧
    (∀ addr < c.initSeq.length, ∃ b, c.initSeq[addr]? = some b ∧
      memRead c .initRom addr 1 = some (b.setWidth 16)) ∧
    (∀ addr n, n ≠ 1 ∨ 84 ≤ addr → memRead c .glyphRom addr n = none) ∧
    (∀ addr n, n ≠ 2 ∨ c.nBuckets < addr → memRead c .tcRom addr n = none) ∧
    (∀ addr n, n ≠ 1 ∨ c.initSeq.length ≤ addr → memRead c .initRom addr n = none)

/-! ## Invariants every step keeps -/

/-- R36: the drive states between operations, by `PHASE`. -/
def Obligations.StepKeepsPhaseDrives : Prop :=
  ∀ s t : State, PhaseDrives s → step s = .next t → PhaseDrives t

/-- R109: the trace stays legally framed. -/
def Obligations.StepKeepsLegalFraming : Prop :=
  ∀ s t : State, LegalBus s → step s = .next t → LegalBus t

/-- R110: no trace made of admitted operations makes the decoder fail. -/
def Obligations.StepKeepsTraceDecodable : Prop :=
  ∀ s t : State, LegalBus s → TraceDecodes s → step s = .next t → TraceDecodes t

/-- R150, R209: one conversion at a time, every `START` matched by its `TAKE` with no event between. -/
def Obligations.StepKeepsOneConversion : Prop :=
  ∀ s t : State, OneConversion s → step s = .next t → OneConversion t

/-- R30, R156: the accumulator of a running average stays bounded by the samples taken. -/
def Obligations.StepKeepsAverageBounded : Prop :=
  ∀ s t : State, AvgBounded s → step s = .next t → AvgBounded t

/-- R31, R32, R33, R66, R215: histories only grow, and the configuration, with the ROMs in it, never changes. -/
def Obligations.HistoriesGrowConfigStays : Prop :=
  ∀ s t : State, step s = .next t →
    t.cfg = s.cfg ∧ s.trace <+: t.trace ∧ s.adcLog <+: t.adcLog ∧ s.resReads <+: t.resReads

/-! ## Rules about all operations -/

/-- R184: an operation is refused with the first of its violated conditions, and completes where none is violated. -/
def Obligations.FirstViolationRefusesElseCompletes : Prop :=
  ∀ (i : Instr) (s : State), s.cfg.wf = true →
    match firstRefusal i s with
    | some r => exec i s = .refused r
    | none => ∃ t, exec i s = .next t

/-- R107: the admission and transition table. -/
def Obligations.PhaseTable : Prop :=
  ∀ (i : Instr) (s : State), (exec i s = .refused .busPhase ↔ phaseAdmits i s.phase = false) ∧
    ∀ t, exec i s = .next t → t.phase = phaseAfter i s.phase

/-- R21: `RES` is written by LIN.INT and LIN.TC when they run, by ADC.SAMPLE and ACQ.AVG when they are taken up after
a wait, and by nothing else; no operation reads it. -/
def Obligations.OnlyFourOperationsTouchResult : Prop :=
  (∀ (i : Instr) (v : Half) (s : State), exec i { s with res := v } =
    mapNext (fun t => if isConversion i then t else { t with res := v }) (exec i s)) ∧
  (∀ (i : Instr) (s t : State), exec i s = .next t → isConversion i = false →
    t.res = s.res ∧ t.resWritten = s.resWritten) ∧
  (∀ s t : State, step s = .next t → s.seq ≠ .idle → s.adcDone = false → t.res = s.res) ∧
  (∀ (v : Half) (s : State), resumeSample { s with res := v } = resumeSample s ∧
    ∀ cnt acc, resumeAvg cnt acc { s with res := v } = resumeAvg cnt acc s)

/-- R162: a pipeline operation neither changes nor is affected by the pins, `PHASE` or `TRACE`; the same of a wait. -/
def Obligations.PipelineIsApartFromBus : Prop :=
  ∀ (sda scl : Drive) (p : Phase) (tr : List PinAction) (s : State),
    (∀ i, isPipeline i = true → exec i (withBus sda scl p tr s) = mapNext (withBus sda scl p tr) (exec i s)) ∧
    (s.seq ≠ .idle → step (withBus sda scl p tr s) = mapNext (withBus sda scl p tr) (step s))

/-- R1 ("Acquisition has no dependency on Display"), R121 to R126: a bus or display operation neither changes nor is
affected by the converter's registers, `ADCLOG` or `RES`. -/
def Obligations.BusIsApartFromPipeline : Prop :=
  ∀ (i : Instr) (sel : Option Source) (done : Bool) (data : Sample) (log : List AdcEvent) (res : Half) (s : State),
    isPipeline i = false →
      exec i (withPipeline sel done data log res s) = mapNext (withPipeline sel done data log res) (exec i s)

/-- R102: what a Bus Driver operation emits is a function of its operand and `START_ORDER` alone. -/
def Obligations.BusDriverHasNoInput : Prop :=
  ∀ (i : Instr) (s₁ s₂ t₁ t₂ : State), isBus i = true → s₁.cfg.startOrder = s₂.cfg.startOrder →
    exec i s₁ = .next t₁ → exec i s₂ = .next t₂ →
      ∃ acts, t₁.trace = s₁.trace ++ acts ∧ t₂.trace = s₂.trace ++ acts

/-! ## The Bus Driver (40_bus_master.md) -/

/-- R103: BUS.INIT's actions, its end state with nothing else changed, its admission, and what the bus sees from each
prior drive state: never a start condition. -/
def Obligations.BusInitReleasesLines : Prop :=
  (∀ s : State, s.phase ≠ .transmitting →
    exec .busInit s = .next (afterActions [.sclRel, .sdaRel] .rel .rel .idle s)) ∧
  (∀ s : State, s.phase = .transmitting → exec .busInit s = .refused .busPhase) ∧
  busEvents ⟨.low, .low⟩ [.sclRel, .sdaRel] = [.clk false, .stopCond] ∧
  busEvents ⟨.low, .rel⟩ [.sclRel, .sdaRel] = [.stopCond] ∧
  busEvents ⟨.rel, .low⟩ [.sclRel, .sdaRel] = [.clk true] ∧
  busEvents ⟨.rel, .rel⟩ [.sclRel, .sdaRel] = []

/-- R104: BUS.WRITE's actions, most significant bit first, its end state with nothing else changed, its admission, its
length with its eight holds and its one delay, and the nine clock events a receiver sees. -/
def Obligations.BusWriteSendsByte : Prop :=
  ∀ (v : Byte) (s : State),
    (s.phase = .transmitting → exec (.busWrite v) s = .next (afterActions (byteActions v) .rel .low .transmitting s)) ∧
    (s.phase ≠ .transmitting → exec (.busWrite v) s = .refused .busPhase) ∧
    (byteActions v).length = 36 + popcount v ∧ (byteActions v).count .hold = 8 ∧ (byteActions v).count .nop = 1 ∧
    ∀ d : Drives, d.scl = .low → busEvents d (byteActions v) =
      [.clk v[7], .clk v[6], .clk v[5], .clk v[4], .clk v[3], .clk v[2], .clk v[1], .clk v[0], .clk true]

/-- R105: BUS.START's actions in either order, its end state with nothing else changed, its admission, its length, and
with `SDA_THEN_SCL` the start condition and nine clock events a receiver sees. -/
def Obligations.BusStartOpensTransaction : Prop :=
  ∀ (a : Byte) (s : State),
    (s.phase = .idle → s.cfg.startOrder = .sdaThenScl → exec (.busStart a) s =
      .next (afterActions ([.sdaLow, .sclLow] ++ byteActions a) .rel .low .transmitting s)) ∧
    (s.phase = .idle → s.cfg.startOrder = .sclThenSda → exec (.busStart a) s =
      .next (afterActions ([.sclLow, .sdaLow] ++ byteActions a) .rel .low .transmitting s)) ∧
    (s.phase ≠ .idle → exec (.busStart a) s = .refused .busPhase) ∧
    (∀ o, (startActions o a).length = 38 + popcount a) ∧
    busEvents ⟨.rel, .rel⟩ ([.sdaLow, .sclLow] ++ byteActions a) =
      .startCond :: [.clk a[7], .clk a[6], .clk a[5], .clk a[4], .clk a[3], .clk a[2], .clk a[1], .clk a[0],
        .clk true]

/-- R106: BUS.STOP's actions, its end state with nothing else changed, its admission, the clock rise and stop
condition a receiver sees, and its data edges after a byte and right after the start condition. -/
def Obligations.BusStopClosesTransaction : Prop :=
  (∀ s : State, s.phase = .transmitting →
    exec .busStop s = .next (afterActions [.sdaLow, .sclRel, .sdaRel] .rel .rel .idle s)) ∧
  (∀ s : State, s.phase ≠ .transmitting → exec .busStop s = .refused .busPhase) ∧
  (∀ d : Drives, d.scl = .low → busEvents d [.sdaLow, .sclRel, .sdaRel] = [.clk false, .stopCond]) ∧
  dataEdges ⟨.rel, .low⟩ [.sdaLow, .sclRel, .sdaRel] = [⟨false, .low⟩, ⟨true, .rel⟩] ∧
  dataEdges ⟨.low, .low⟩ [.sdaLow, .sclRel, .sdaRel] = [⟨true, .rel⟩]

/-- R111, the source's first testable property: a byte sent is read back, and every data edge of BUS.WRITE happens with
the clock low. -/
def Obligations.SerializationReadsBack : Prop :=
  ∀ (a b : Byte) (s : State), s.cfg.startOrder = .sdaThenScl → s.phase = .idle →
    ∃ s₁ s₂ s₃ acts₁ acts₂ acts₃, exec (.busStart a) s = .next s₁ ∧ exec (.busWrite b) s₁ = .next s₂ ∧
      exec .busStop s₂ = .next s₃ ∧ s₁.trace = s.trace ++ acts₁ ∧ s₂.trace = s₁.trace ++ acts₂ ∧
      s₃.trace = s₂.trace ++ acts₃ ∧
      busDecode ⟨.rel, .rel⟩ (acts₁ ++ acts₂ ++ acts₃) = .ok [⟨[a, b], [true, true]⟩] ∧
      ∀ e ∈ dataEdges s₁.drives acts₂, e.scl = .low

/-- R112, the source's second testable property as corrected there: the framing alone, and the issuable pair. -/
def Obligations.FramingReadsBack : Prop :=
  (∀ s : State, s.cfg.startOrder = .sdaThenScl → s.drives = ⟨.rel, .rel⟩ →
    (busStopBody (startCond s)).trace = s.trace ++ [.sdaLow, .sclLow, .sdaLow, .sclRel, .sdaRel] ∧
    (busStopBody (startCond s)).drives = ⟨.rel, .rel⟩) ∧
  levelHistory ⟨.rel, .rel⟩ [.sdaLow, .sclLow, .sdaLow, .sclRel, .sdaRel] =
    [⟨.low, .rel⟩, ⟨.low, .low⟩, ⟨.low, .low⟩, ⟨.low, .rel⟩, ⟨.rel, .rel⟩] ∧
  dataEdges ⟨.rel, .rel⟩ [.sdaLow, .sclLow, .sdaLow, .sclRel, .sdaRel] = [⟨false, .rel⟩, ⟨true, .rel⟩] ∧
  ∀ (a : Byte) (s : State), s.cfg.startOrder = .sdaThenScl → s.phase = .idle →
    ∃ s₁ s₂ acts, exec (.busStart a) s = .next s₁ ∧ exec .busStop s₁ = .next s₂ ∧ s₂.trace = s.trace ++ acts ∧
      s₂.drives = ⟨.rel, .rel⟩ ∧
      ∃ mid, dataEdges ⟨.rel, .rel⟩ acts = [⟨false, .rel⟩] ++ mid ++ [⟨true, .rel⟩] ∧ ∀ e ∈ mid, e.scl = .low

/-- R105, 90_conflicts.md C1: with the other start order the decoder finds no transaction at all. -/
def Obligations.OtherStartOrderMakesNoTransaction : Prop :=
  ∀ (a : Byte) (bs : List Byte), busDecode ⟨.rel, .rel⟩ (wireActions .sclThenSda (a :: bs)) = .ok []

/-- R110, R75: any list of transactions of at least one byte each is read back exactly as it was sent. -/
def Obligations.TransactionsReadBack : Prop :=
  ∀ ts : List (List Byte), (∀ b ∈ ts, b ≠ []) →
    busDecode ⟨.rel, .rel⟩ (ts.flatMap (wireActions .sdaThenScl)) = .ok (ts.map wire)

/-! ## The Display Driver (41_display.md) -/

/-- R121: DSP.INIT is one command-mode transaction of `INIT_SEQ`, and changes nothing but the trace and the pins. -/
def Obligations.DisplayInitSendsSequence : Prop :=
  ∀ s : State, s.phase = .idle →
    exec .dspInit s = .next (afterActions
      (wireActions s.cfg.startOrder (s.cfg.dispAddrByte :: 0x00 :: s.cfg.initSeq)) .rel .rel .idle s)

/-- R123, R77: DSP.CURSOR is one command-mode transaction of the three cursor bytes, and changes nothing else. -/
def Obligations.DisplayCursorSendsThreeCommands : Prop :=
  ∀ (column : BitVec 7) (page : BitVec 4) (s : State), s.phase = .idle →
    exec (.dspCursor column page) s = .next (afterActions (wireActions s.cfg.startOrder
      [s.cfg.dispAddrByte, 0x00, BitVec.ofNat 8 (column.toNat % 16),
        s.cfg.colHiBase ||| BitVec.ofNat 8 (column.toNat / 16), s.cfg.pageBase ||| BitVec.ofNat 8 page.toNat])
      .rel .rel .idle s)

/-- R125, R52: DSP.GLYPH is one data-mode transaction of the glyph's six bytes, and changes nothing else; an index
above 13 is refused. -/
def Obligations.DisplayGlyphSendsSixBytes : Prop :=
  ∀ (idx : BitVec 4) (s : State), s.cfg.wf = true → s.phase = .idle →
    (idx.toNat ≤ 13 → ∃ g, s.cfg.glyph[idx.toNat]? = some g ∧ g.length = 6 ∧
      exec (.dspGlyph idx) s = .next (afterActions
        (wireActions s.cfg.startOrder (s.cfg.dispAddrByte :: 0x40 :: g)) .rel .rel .idle s)) ∧
    (13 < idx.toNat → exec (.dspGlyph idx) s = .refused .glyphIndex)

/-- R132, the source's eighth testable property: what DSP.CLEAR emits decodes to 4096 transactions, alternately a cursor
and one zero data byte, the cursors covering every (column, page) exactly once, in whatever order; nothing else changes.
Which actions it emits, in either start order, is ClearEmitsItsTransactions. -/
def Obligations.ClearCoversTheGridOnce : Prop :=
  ∀ s : State, s.cfg.wf = true → s.cfg.startOrder = .sdaThenScl → s.phase = .idle →
    ∃ (acts : List PinAction) (ts : List (List Byte)),
      exec .dspClear s = .next (afterActions acts .rel .rel .idle s) ∧
      busDecode ⟨.rel, .rel⟩ acts = .ok (ts.map wire) ∧ ts.length = 4096 ∧
      (∀ i < 2048, ts[2 * i + 1]? = some [s.cfg.dispAddrByte, 0x40, 0x00] ∧
        ∃ lo hi pg, ts[2 * i]? = some [s.cfg.dispAddrByte, 0x00, lo, hi, pg]) ∧
      (∀ (column page : Nat), column < 128 → page < 16 → ∃! i, i < 2048 ∧
        ∃ lo hi pg, ts[2 * i]? = some [s.cfg.dispAddrByte, 0x00, lo, hi, pg] ∧
          ((hi &&& 0x0F) <<< 4 ||| lo).toNat = column ∧ (pg &&& 0x0F).toNat = page)

/-- R126, R127, R128: DSP.INT sends the glyphs of `Glyphs(value)`, each after its own cursor, six columns apart, and
changes nothing but the trace and the pins. -/
def Obligations.IntegerRendersItsGlyphs : Prop :=
  ∀ (v : Half) (column : BitVec 7) (page : BitVec 4) (s : State), s.cfg.wf = true → s.phase = .idle →
    v.toInt ≠ -32768 → column.toNat + 6 * ((if v.toInt < 0 then 7 else 6) - 1) ≤ 127 →
    exec (.dspInt v column page) s = .next (afterActions
      ((fieldTxns s.cfg page (column.setWidth 8) (glyphs v)).flatMap (wireActions s.cfg.startOrder))
      .rel .rel .idle s) ∧
    (fieldTxns s.cfg page (column.setWidth 8) (glyphs v)).length = if v.toInt < 0 then 14 else 12

/-- R133, the source's testable properties 3, 4 and 5. -/
def Obligations.GlyphsOfSourceExamples : Prop :=
  glyphs 0 = [10, 10, 10, 0, 11, 12] ∧ glyphs (BitVec.ofInt 16 (-5)) = [13, 10, 10, 10, 5, 11, 12] ∧
    glyphs 1234 = [1, 2, 3, 4, 11, 12]

/-- R127, R129: the four digit places show the value below ten thousand: blanks stand for leading zeros only, the units
place is never blank, and higher digits are dropped. -/
def Obligations.DigitsShowValueModuloTenThousand : Prop :=
  ∀ v : Nat, ∃ e3 e2 e1 e0, digits v = [e3, e2, e1, e0] ∧ e0 < 10 ∧
    (∀ e ∈ [e3, e2, e1], e < 10 ∨ e = glyphSpace) ∧
    (e2 = glyphSpace → e3 = glyphSpace) ∧ (e1 = glyphSpace → e2 = glyphSpace) ∧
    (e3 = 0 → False) ∧ (e2 = 0 → e3 ≠ glyphSpace) ∧ (e1 = 0 → e2 ≠ glyphSpace) ∧
    (e3 % 10) * 1000 + (e2 % 10) * 100 + (e1 % 10) * 10 + e0 = v % 10000

/-- R216: how many actions each operation appends to `TRACE`, and a transaction in its parts. -/
def Obligations.ActionCounts : Prop :=
  (∀ (ctrl : Byte) (bs : List Byte) (s : State), (txn ctrl bs s).trace.length = s.trace.length +
    (41 + popcount s.cfg.dispAddrByte + 36 * (bs.length + 1) + popcount ctrl + (bs.map popcount).sum)) ∧
  ∀ (i : Instr) (s t : State), s.cfg.wf = true → exec i s = .next t →
    t.trace.length = s.trace.length +
      match i with
      | .busInit => 2
      | .busWrite v => 36 + popcount v
      | .busStart a => 38 + popcount a
      | .busStop => 3
      | .dspInit =>
        41 + popcount s.cfg.dispAddrByte + 36 * (s.cfg.initSeq.length + 1) + (s.cfg.initSeq.map popcount).sum
      | .dspCursor column page =>
        185 + popcount s.cfg.dispAddrByte + ((cursorBytes s.cfg (column.setWidth 8) page).map popcount).sum
      | .dspGlyph idx =>
        294 + popcount s.cfg.dispAddrByte + ((glyphRow s.cfg idx.toNat).map popcount).sum
      | .dspClear =>
        2048 * (299 + 2 * popcount s.cfg.dispAddrByte) +
          ((List.range 16).map fun pg => ((List.range 128).map fun cl =>
            ((cursorBytes s.cfg (BitVec.ofNat 8 cl) (BitVec.ofNat 4 pg)).map popcount).sum).sum).sum
      | .dspInt v column page =>
        ((glyphs v).zipIdx.map fun (g, j) =>
          (185 + popcount s.cfg.dispAddrByte +
            ((cursorBytes s.cfg (BitVec.ofNat 8 (column.toNat + 6 * j)) page).map popcount).sum) +
          (294 + popcount s.cfg.dispAddrByte + ((glyphRow s.cfg g).map popcount).sum)).sum
      | .adcCfgi | .adcCfgt | .adcSample | .acqAvg | .linInt _ | .linTc _ => 0

/-! ## The pipeline (42_pipeline.md) -/

/-- R151, R153: a configure step selects its source and logs it, and changes nothing else. -/
def Obligations.ConfigureSelectsSource : Prop :=
  ∀ s : State,
    exec .adcCfgi s = .next { s with adcSel := some .internal, adcLog := s.adcLog ++ [.cfg .internal] } ∧
    exec .adcCfgt s = .next { s with adcSel := some .thermocouple, adcLog := s.adcLog ++ [.cfg .thermocouple] }

/-- R154: ADC.SAMPLE clears a stale completion, logs `START` and waits; whatever sample the converter answers, the next
step completes the operation, with exactly R154's effects. Without a configured source it is refused. (That the
operation is cut at its wait is log 5, that it goes on in the very next step log 8.) -/
def Obligations.SampleTakesTheAnswer : Prop :=
  ∀ s : State,
    (s.adcSel ≠ none → ∃ t, exec .adcSample s = .next t ∧
      t = { s with adcDone := false, adcLog := s.adcLog ++ [.start], seq := .sampleWait } ∧
      (s.cfg.wf = true → ∀ raw : Sample, feedSamples [raw] t = .next { s with
        adcDone := false, adcData := raw, adcLog := s.adcLog ++ [.start, .take raw], res := raw.setWidth 16,
        resWritten := true, seq := .idle })) ∧
    (s.adcSel = none → exec .adcSample s = .refused .adcUnconfigured)

/-- R156: ACQ.AVG takes `N_SAMPLES` samples, whatever they are, and leaves the floor of their average in `RES`; the log
gains a `START` and a `TAKE` for each. Without a configured source it is refused. (That the operation is cut at each
wait is log 5, that it goes on in the very next step log 8.) -/
def Obligations.AverageIsTheFloorOfTheMean : Prop :=
  ∀ s : State, s.cfg.wf = true →
    (s.adcSel ≠ none → ∃ t, exec .acqAvg s = .next t ∧
      ∀ raws : List Sample, raws.length = s.cfg.nSamples →
        feedSamples raws t = .next { s with
          adcDone := false, adcData := raws.getLast?.getD s.adcData,
          adcLog := s.adcLog ++ raws.flatMap (fun raw => [.start, .take raw]),
          res := BitVec.ofNat 16 ((raws.map BitVec.toNat).sum / s.cfg.nSamples),
          resWritten := true, seq := .idle } ∧
        (raws.map BitVec.toNat).sum / s.cfg.nSamples ≤ 1023) ∧
    (s.adcSel = none → exec .acqAvg s = .refused .adcUnconfigured)

/-- R155, R191, R152: while a `START` is unanswered a step changes only what the converter agent writes, with any sample
of the selected source, or nothing; and the counter of free values, which is the model's own (log 4; that one step holds
or answers is log 8). -/
def Obligations.WaitIsLiftedByConverterOnly : Prop :=
  ∀ (s : State) (src : Source), s.cfg.wf = true → s.seq ≠ .idle → s.adcDone = false → s.adcSel = some src →
    s.adcLog.getLast? = some .start →
    (Config.converterReady s.tick = false → step s = .next { s with tick := s.tick + 1 }) ∧
    (Config.converterReady s.tick = true → step s = .next { s with
      adcData := Config.drawSample src s.tick, adcDone := true, tick := s.tick + 1 })

/-- R155: with a converter agent that is fair, whatever it answers, every wait ends and the operation completes; with
one that never acts, the operation waits for ever. (The converter as an oracle and the counter are log 4, the cut at the
wait log 5, the order of the two agents log 8.) -/
def Obligations.FairConverterEndsEveryWait : Prop :=
  ∀ (o : Oracle) (s : State), s.cfg.wf = true → s.seq ≠ .idle → s.adcSel ≠ none →
    s.adcLog.getLast? = some .start →
    (Fair o → ∃ k t, (coreWith o).run k s = .next t ∧ busy t = false) ∧
    ((∀ n, o.ready n = false) → s.adcDone = false →
      ∀ k, (coreWith o).run k s = .next { s with tick := s.tick + k })

/-- R157: LIN.INT truncates `avg·SCALE_Q − OFFSET_Q` over `2^FRAC` toward zero into `RES`, and changes nothing else.
(Toward zero, which shows on negative temperatures, is the spec's own reading of its source, D20 of
92_eei_decisions.md.) -/
def Obligations.InternalConversionTruncates : Prop :=
  ∀ (avg : Sample) (s : State), s.cfg.wf = true → ∃ v : Half,
    v.toInt = Int.tdiv ((avg.toNat * s.cfg.scaleQ.toNat : Nat) - s.cfg.offsetQ.toInt) (2 ^ s.cfg.frac) ∧
    exec (.linInt avg) s = .next { s with res := v, resWritten := true }

/-- R158, the source's seventh testable property. -/
def Obligations.InternalConversionIsMonotone : Prop :=
  ∀ (a₁ a₂ : Sample) (s t₁ t₂ : State), s.cfg.wf = true → a₁.toNat < a₂.toNat →
    exec (.linInt a₁) s = .next t₁ → exec (.linInt a₂) s = .next t₂ → t₁.res.toInt ≤ t₂.res.toInt

/-- R159, R160: LIN.TC interpolates between the two entries of the average's bucket into `RES`, and changes nothing
else; the result is 0 to 6554; past the table it is refused. -/
def Obligations.ThermocoupleConversionInterpolates : Prop :=
  ∀ (avg : Half) (s : State), s.cfg.wf = true →
    (avg.toNat / 512 < s.cfg.nBuckets → ∃ t0 t1 v : Half,
      s.cfg.tcTable[avg.toNat / 512]? = some t0 ∧ s.cfg.tcTable[avg.toNat / 512 + 1]? = some t1 ∧
      v.toInt = (((t0.toNat : Int) + (avg.toNat % 512 : Nat) * ((t1.toNat : Int) - t0.toNat) / 512 + s.cfg.roundBias) / 10) ∧
      0 ≤ v.toInt ∧ v.toInt ≤ 6554 ∧
      exec (.linTc avg) s = .next { s with res := v, resWritten := true }) ∧
    (s.cfg.nBuckets ≤ avg.toNat / 512 → exec (.linTc avg) s = .refused .bucketRange)

/-- R161, the source's sixth testable property: on a breakpoint boundary the interpolated part is zero. -/
def Obligations.BreakpointBoundaryHasNoExtra : Prop :=
  ∀ (i : Nat) (avg : Half) (s : State), s.cfg.wf = true → i < s.cfg.nBuckets → avg.toNat = 512 * i →
    ∃ t0 t1 : Half, s.cfg.tcTable[i]? = some t0 ∧ s.cfg.tcTable[i + 1]? = some t1 ∧ tcExtra t0 t1 avg.toNat = 0 ∧
      ∃ v : Half, v.toNat = (t0.toNat + s.cfg.roundBias) / 10 ∧
        exec (.linTc avg) s = .next { s with res := v, resWritten := true }

/-- R159: LIN.TC is non-decreasing in the average, across bucket boundaries too. -/
def Obligations.ThermocoupleConversionIsMonotone : Prop :=
  ∀ (a₁ a₂ : Half) (s t₁ t₂ : State), s.cfg.wf = true → a₁.toNat ≤ a₂.toNat →
    exec (.linTc a₁) s = .next t₁ → exec (.linTc a₂) s = .next t₂ → t₁.res.toInt ≤ t₂.res.toInt

/-! ## Host programs (30_encoding.md R82, 42_pipeline.md R163, 41_display.md R131, 70_reset_and_hazards.md R201) -/

/-- R201, R215: the start-up sequence, run from reset with any configuration, ends well, and the bus saw the
initialization transaction and then the clearing ones. (The run starts from the released reset pins, log 3, and the host
is a list, log 6; the clearing transactions stand page by page, as R124 visits the grid, D15, where
ClearCoversTheGridOnce is free of the order.) -/
def Obligations.StartUpEndsWell : Prop :=
  ∀ c : Config, c.wf = true → c.startOrder = .sdaThenScl →
    ∃ t, Sys2Proof.core.run 3 { State.resetWith c with host := startUp } = .next t ∧ EndedWell t ∧
      busDecode ⟨.rel, .rel⟩ t.trace = .ok ((txnBytes c 0x00 c.initSeq :: clearTxns c).map wire)

/-- R163: ACQUIRE, under the fairness premise, runs to its end, leaves the bus alone, and emits R163's converter events:
each path takes `N_SAMPLES` samples that the converter drew from the path's own source, and the host has read each
path's average, the floor of the mean of those samples, and the temperature it converts to. (The host is a list, log 6;
the converter is an oracle, log 4; the cuts at the waits are logs 5 and 8.) -/
def Obligations.AcquireReadsBothTemperatures : Prop :=
  ∀ (o : Oracle) (s : State) (rest : List HostAct), Fair o → s.cfg.wf = true → s.seq = .idle →
    s.host = acquire ++ rest →
    ∃ (k : Nat) (t : State) (rawsI rawsT : List Sample) (avgI avgT : Nat) (t0 t1 : Half),
      (coreWith o).run k s = .next t ∧ t.seq = .idle ∧ t.host = rest ∧
      rawsI.length = s.cfg.nSamples ∧ (∀ raw ∈ rawsI, ∃ n, raw = o.draw .internal n) ∧
      rawsT.length = s.cfg.nSamples ∧ (∀ raw ∈ rawsT, ∃ n, raw = o.draw .thermocouple n) ∧
      t.adcLog = s.adcLog ++ [.cfg .internal] ++ rawsI.flatMap (fun raw => [.start, .take raw]) ++
        [.cfg .thermocouple] ++ rawsT.flatMap (fun raw => [.start, .take raw]) ∧
      avgI = (rawsI.map BitVec.toNat).sum / s.cfg.nSamples ∧
      avgT = (rawsT.map BitVec.toNat).sum / s.cfg.nSamples ∧
      s.cfg.tcTable[avgT / 512]? = some t0 ∧ s.cfg.tcTable[avgT / 512 + 1]? = some t1 ∧
      t.resReads = s.resReads ++ [BitVec.ofNat 16 avgI, BitVec.ofInt 16 (linCelsius s.cfg avgI),
        BitVec.ofNat 16 avgT, BitVec.ofNat 16 (tcCelsius s.cfg.roundBias t0 t1 avgT)] ∧
      t.adcSel = some .thermocouple ∧ t.adcDone = false ∧ t.trace = s.trace ∧ t.drives = s.drives ∧
      t.phase = s.phase

/-- R131, R82: RENDER after an ACQUIRE draws the two temperatures read, the internal one first, each at its anchor. -/
def Obligations.RenderDrawsBothTemperatures : Prop :=
  ∀ (s : State) (before : List Half) (avgI internalC avgT thermocoupleC : Half) (rest : List HostAct),
    s.cfg.wf = true → s.seq = .idle → s.host = renderAcquired s.cfg ++ rest →
    s.resReads = before ++ [avgI, internalC, avgT, thermocoupleC] →
    Sys2Proof.core.run 2 s =
      thenDo (exec (.dspInt internalC s.cfg.posInt.column s.cfg.posInt.page)
          { s with host := (renderAcquired s.cfg).tail ++ rest })
        fun t => exec (.dspInt thermocoupleC s.cfg.posTc.column s.cfg.posTc.page) { t with host := rest }

/-! ## The picture, under the premise of the optional reference display (20_memory.md R60) -/

/-- R59, R60, R125, R206: on the reference display, DSP.GLYPH right after DSP.CURSOR puts the glyph into its six columns
of its page, and nothing else of the picture changes; from a column past 122 the display refuses the glyph's last bytes.
-/
def Obligations.GlyphStandsAtItsCursor : Prop :=
  ∀ (s : State) (d : Display) (column : BitVec 7) (page idx : BitVec 4), s.cfg.wf = true →
    s.cfg.startOrder = .sdaThenScl → s.phase = .idle → CursorCommandsDistinct s.cfg → idx.toNat ≤ 13 →
    ∃ s₁ s₂ acts ts, exec (.dspCursor column page) s = .next s₁ ∧ exec (.dspGlyph idx) s₁ = .next s₂ ∧
      s₂.trace = s.trace ++ acts ∧ busDecode ⟨.rel, .rel⟩ acts = .ok ts ∧
      (column.toNat ≤ 122 → ∃ d', displayTxns s.cfg ts d = .ok d' ∧
        ∀ (x : BitVec 7) (p : BitVec 4), d'.pixel x p =
          if p = page ∧ column.toNat ≤ x.toNat ∧ x.toNat < column.toNat + 6
          then (glyphRow s.cfg idx.toNat)[x.toNat - column.toNat]? else d.pixel x p) ∧
      (122 < column.toNat → displayTxns s.cfg ts d = .error .pastLastColumn)

/-- R124, R60: on the reference display DSP.CLEAR leaves every byte of the picture zero, whatever it was. -/
def Obligations.ClearBlanksThePicture : Prop :=
  ∀ (s : State) (d : Display), s.cfg.wf = true → s.cfg.startOrder = .sdaThenScl → s.phase = .idle →
    CursorCommandsDistinct s.cfg →
    ∃ t acts ts d', exec .dspClear s = .next t ∧ t.trace = s.trace ++ acts ∧
      busDecode ⟨.rel, .rel⟩ acts = .ok ts ∧ displayTxns s.cfg ts d = .ok d' ∧
      ∀ (x : BitVec 7) (p : BitVec 4), d'.pixel x p = some 0

/-- R128, R213: on the reference display DSP.INT overwrites exactly the columns of its field, 36 or 42 of one page, with
the bytes of its glyphs, and leaves every other byte of the picture; of a field that the block admits and that runs past
column 127 the display refuses the last bytes. -/
def Obligations.IntegerOverwritesItsColumnsOnly : Prop :=
  ∀ (s : State) (d : Display) (v : Half) (column : BitVec 7) (page : BitVec 4), s.cfg.wf = true →
    s.cfg.startOrder = .sdaThenScl → s.phase = .idle → CursorCommandsDistinct s.cfg → v.toInt ≠ -32768 →
    column.toNat + 6 * ((if v.toInt < 0 then 7 else 6) - 1) ≤ 127 →
    ∃ t acts ts, exec (.dspInt v column page) s = .next t ∧ t.trace = s.trace ++ acts ∧
      busDecode ⟨.rel, .rel⟩ acts = .ok ts ∧
      (column.toNat + 6 * (if v.toInt < 0 then 7 else 6) ≤ 128 → ∃ d', displayTxns s.cfg ts d = .ok d' ∧
        ∀ (x : BitVec 7) (p : BitVec 4), d'.pixel x p =
          if p = page ∧ column.toNat ≤ x.toNat ∧ x.toNat < column.toNat + 6 * (if v.toInt < 0 then 7 else 6)
          then ((glyphs v)[(x.toNat - column.toNat) / 6]?).bind fun g =>
            (glyphRow s.cfg g)[(x.toNat - column.toNat) % 6]?
          else d.pixel x p) ∧
      (128 < column.toNat + 6 * (if v.toInt < 0 then 7 else 6) → displayTxns s.cfg ts d = .error .pastLastColumn)

/-- R60, R190: with the reference slave on the lines, the data levels at the clock rises of a transaction are the bits
of its bytes, each byte followed by 0 where the slave acknowledges and 1 where it does not, and last the 0 of the stop;
whatever the actions, the clock line has the block's own level, and so has the data line, but in a ninth clock of a
slave that acknowledges, where it is 0. (That "the ninth clock" is the pulse, and that every byte is acknowledged
whatever the address, is log 18.) -/
def Obligations.ReferenceSlaveAcknowledgesEveryByte : Prop :=
  (∀ (acks : Bool) (bytes : List Byte), bytes ≠ [] →
    sampledLevels acks ⟨⟨.rel, .rel⟩, false, 0⟩ (wireActions .sdaThenScl bytes) =
      bytes.flatMap (fun v => [v[7], v[6], v[5], v[4], v[3], v[2], v[1], v[0], !acks]) ++ [false]) ∧
  (∀ (acks : Bool) (d : Drives) (acts : List PinAction),
    (slaveLevels acks (slaveWatch d acts)).2 = masterLevel (replay d acts).scl ∧
    (slaveLevels acks (slaveWatch d acts)).1 =
      (masterLevel (replay d acts).sda && !(acks && ninthClock (slaveWatch d acts))))


/-- R124: in either start order, DSP.CLEAR emits the actions of a cursor transaction and of a transaction of one zero
byte for every (column, page), and nothing but the trace and the pins changes. (They stand page by page, as R124 visits
the grid, D15 of 92_eei_decisions.md; ClearCoversTheGridOnce is free of the order.) -/
def Obligations.ClearEmitsItsTransactions : Prop :=
  ∀ s : State, s.phase = .idle →
    exec .dspClear s = .next (afterActions
      (((List.range 16).flatMap fun pg => (List.range 128).flatMap fun cl =>
        [s.cfg.dispAddrByte :: 0x00 :: cursorBytes s.cfg (BitVec.ofNat 8 cl) (BitVec.ofNat 4 pg),
          [s.cfg.dispAddrByte, 0x40, 0x00]]).flatMap (wireActions s.cfg.startOrder)) .rel .rel .idle s) ∧
    clearTxns s.cfg = (List.range 16).flatMap fun pg => (List.range 128).flatMap fun cl =>
      [s.cfg.dispAddrByte :: 0x00 :: cursorBytes s.cfg (BitVec.ofNat 8 cl) (BitVec.ofNat 4 pg),
        [s.cfg.dispAddrByte, 0x40, 0x00]]
end

