-- ==== Sys2Proof/Laws/Decode.lean ====
section
/-! SUPPORT. The four fields of a packed command word (30_encoding.md rule R70), and its operands under the masks of
the opcode map. -/

namespace Sys2Proof

section
variable (op : BitVec 5) (pg : BitVec 4) (col : BitVec 7) (imm : Half)

/-! Each field of a packed word is what was packed (R70). -/
@[simp] theorem opField_pack : opField (pack op pg col imm) = op := by
  unfold opField pack; ext i hi
  have h1 : 27 + i - 23 ≥ 4 := by omega
  have h2 : 27 + i - 16 ≥ 7 := by omega
  have h3 : 27 + i ≥ 16 := by omega
  simp [BitVec.getLsbD_of_ge _ _ h1, BitVec.getLsbD_of_ge _ _ h2, BitVec.getLsbD_of_ge _ _ h3, hi]
  simp [show 27 + i < 32 by omega, show i < 32 by omega]

@[simp] theorem pgField_pack : pgField (pack op pg col imm) = pg := by
  unfold pgField pack; ext i hi
  have h1 : 23 + i < 27 := by omega
  have h2 : 23 + i - 16 ≥ 7 := by omega
  have h3 : 23 + i ≥ 16 := by omega
  simp [BitVec.getLsbD_of_ge _ _ h2, BitVec.getLsbD_of_ge _ _ h3, hi,h1]
  simp [show 23 + i < 32 by omega, show i < 32 by omega]

@[simp] theorem colField_pack : colField (pack op pg col imm) = col := by
  unfold colField pack; ext i hi
  have h1 : 16 + i < 27 := by omega
  have h2 : 16 + i < 23 := by omega
  simp [hi, h1, h2]
  simp [show 16 + i < 32 by omega, show i < 32 by omega]

@[simp] theorem immField_pack : immField (pack op pg col imm) = imm := by
  unfold immField pack; ext i hi
  have h1 : i < 27 := by omega
  have h2 : i < 23 := by omega
  simp [hi, h1, h2]
  omega

end

/-- A word is the packing of its four fields (R70). -/
theorem pack_fields (w : CmdWord) : pack (opField w) (pgField w) (colField w) (immField w) = w := by
  unfold pack opField pgField colField immField
  ext i hi
  rcases Nat.lt_or_ge i 16 with h | h
  · have h1 : i < 27 := by omega
    have h2 : i < 23 := by omega
    simp [h, h1, h2, hi]
  rcases Nat.lt_or_ge i 23 with h | h
  · have h1 : i < 27 := by omega
    have h2 : ¬ i < 16 := by omega
    have h3 : i - 16 < 7 := by omega
    have h4 : 16 + (i - 16) = i := by omega
    simp [h, h1, h2, hi, h3, h4]
  rcases Nat.lt_or_ge i 27 with h' | h'
  · have h2 : ¬ i < 16 := by omega
    have h3 : ¬ i - 16 < 7 := by omega
    have h4 : i - 23 < 4 := by omega
    have h5 : ¬ i < 23 := by omega
    have h6 : 23 + (i - 23) = i := by omega
    simp [h', h2, hi, h3, h4, h5, h6]
  · have h1 : ¬ i < 27 := by omega
    have h2 : ¬ i < 16 := by omega
    have h3 : ¬ i - 16 < 7 := by omega
    have h4 : ¬ i - 23 < 4 := by omega
    have h5 : i - 27 < 5 := by omega
    have h6 : 27 + (i - 27) = i := by omega
    simp [h1, h2, hi, h3, h4, h5, h6]
/-- The bits of a packed word under a mask, field by field. -/
theorem pack_and (op op' : BitVec 5) (pg pg' : BitVec 4) (col col' : BitVec 7) (imm imm' : Half) :
    pack op pg col imm &&& pack op' pg' col' imm' = pack (op &&& op') (pg &&& pg') (col &&& col') (imm &&& imm') := by
  rw [← pack_fields (pack op pg col imm &&& pack op' pg' col' imm')]
  congr 1 <;> simp only [opField, pgField, colField, immField, BitVec.extractLsb'_and]
  · exact congrArg₂ (· &&& ·) (opField_pack ..) (opField_pack ..)
  · exact congrArg₂ (· &&& ·) (pgField_pack ..) (pgField_pack ..)
  · exact congrArg₂ (· &&& ·) (colField_pack ..) (colField_pack ..)
  · exact congrArg₂ (· &&& ·) (immField_pack ..) (immField_pack ..)

/-! Operands narrower than `IMM` have no bit under their row's mask (R71, R72). -/

theorem byte_and_mask (b : Byte) : b.setWidth 16 &&& 0xFF00#16 = 0#16 := by revert b; decide

theorem index_and_mask (b : BitVec 4) : b.setWidth 16 &&& 0xFFF0#16 = 0#16 := by revert b; decide

theorem sample_and_mask (b : Sample) : b.setWidth 16 &&& 0xFC00#16 = 0#16 := by
  ext i hi
  rcases Nat.lt_or_ge i 10 with h | h
  · have : i = 0 ∨ i = 1 ∨ i = 2 ∨ i = 3 ∨ i = 4 ∨ i = 5 ∨ i = 6 ∨ i = 7 ∨ i = 8 ∨ i = 9 := by omega
    rcases this with rfl|rfl|rfl|rfl|rfl|rfl|rfl|rfl|rfl|rfl <;> simp
  · simp [BitVec.getLsbD_of_ge _ _ h]

end Sys2Proof
end

