-- ==== Sys2Proof/Laws/State.lean ====
section
/-! SUPPORT. One lemma per field per update of the state, true by rfl, so that no later proof unfolds a record
update. -/

namespace Sys2Proof.Machine

variable (s : State)

/-! `setPhase`. -/

@[simp] theorem setPhase_sdaDrv (p : Phase) : (setPhase p s).sdaDrv = s.sdaDrv := rfl
@[simp] theorem setPhase_sclDrv (p : Phase) : (setPhase p s).sclDrv = s.sclDrv := rfl
@[simp] theorem setPhase_phase (p : Phase) : (setPhase p s).phase = p := rfl
@[simp] theorem setPhase_adcSel (p : Phase) : (setPhase p s).adcSel = s.adcSel := rfl
@[simp] theorem setPhase_adcDone (p : Phase) : (setPhase p s).adcDone = s.adcDone := rfl
@[simp] theorem setPhase_adcData (p : Phase) : (setPhase p s).adcData = s.adcData := rfl
@[simp] theorem setPhase_res (p : Phase) : (setPhase p s).res = s.res := rfl
@[simp] theorem setPhase_resWritten (p : Phase) : (setPhase p s).resWritten = s.resWritten := rfl
@[simp] theorem setPhase_traceRev (p : Phase) : (setPhase p s).traceRev = s.traceRev := rfl
@[simp] theorem setPhase_adcLog (p : Phase) : (setPhase p s).adcLog = s.adcLog := rfl
@[simp] theorem setPhase_cfg (p : Phase) : (setPhase p s).cfg = s.cfg := rfl
@[simp] theorem setPhase_seq (p : Phase) : (setPhase p s).seq = s.seq := rfl
@[simp] theorem setPhase_host (p : Phase) : (setPhase p s).host = s.host := rfl
@[simp] theorem setPhase_resReads (p : Phase) : (setPhase p s).resReads = s.resReads := rfl
@[simp] theorem setPhase_tick (p : Phase) : (setPhase p s).tick = s.tick := rfl

/-! `setSeq`. -/

@[simp] theorem setSeq_sdaDrv (q : Seq) : (setSeq q s).sdaDrv = s.sdaDrv := rfl
@[simp] theorem setSeq_sclDrv (q : Seq) : (setSeq q s).sclDrv = s.sclDrv := rfl
@[simp] theorem setSeq_phase (q : Seq) : (setSeq q s).phase = s.phase := rfl
@[simp] theorem setSeq_adcSel (q : Seq) : (setSeq q s).adcSel = s.adcSel := rfl
@[simp] theorem setSeq_adcDone (q : Seq) : (setSeq q s).adcDone = s.adcDone := rfl
@[simp] theorem setSeq_adcData (q : Seq) : (setSeq q s).adcData = s.adcData := rfl
@[simp] theorem setSeq_res (q : Seq) : (setSeq q s).res = s.res := rfl
@[simp] theorem setSeq_resWritten (q : Seq) : (setSeq q s).resWritten = s.resWritten := rfl
@[simp] theorem setSeq_traceRev (q : Seq) : (setSeq q s).traceRev = s.traceRev := rfl
@[simp] theorem setSeq_adcLog (q : Seq) : (setSeq q s).adcLog = s.adcLog := rfl
@[simp] theorem setSeq_cfg (q : Seq) : (setSeq q s).cfg = s.cfg := rfl
@[simp] theorem setSeq_seq (q : Seq) : (setSeq q s).seq = q := rfl
@[simp] theorem setSeq_host (q : Seq) : (setSeq q s).host = s.host := rfl
@[simp] theorem setSeq_resReads (q : Seq) : (setSeq q s).resReads = s.resReads := rfl
@[simp] theorem setSeq_tick (q : Seq) : (setSeq q s).tick = s.tick := rfl

/-! `setAdcSel`. -/

@[simp] theorem setAdcSel_sdaDrv (src : Source) : (setAdcSel src s).sdaDrv = s.sdaDrv := rfl
@[simp] theorem setAdcSel_sclDrv (src : Source) : (setAdcSel src s).sclDrv = s.sclDrv := rfl
@[simp] theorem setAdcSel_phase (src : Source) : (setAdcSel src s).phase = s.phase := rfl
@[simp] theorem setAdcSel_adcSel (src : Source) : (setAdcSel src s).adcSel = some src := rfl
@[simp] theorem setAdcSel_adcDone (src : Source) : (setAdcSel src s).adcDone = s.adcDone := rfl
@[simp] theorem setAdcSel_adcData (src : Source) : (setAdcSel src s).adcData = s.adcData := rfl
@[simp] theorem setAdcSel_res (src : Source) : (setAdcSel src s).res = s.res := rfl
@[simp] theorem setAdcSel_resWritten (src : Source) : (setAdcSel src s).resWritten = s.resWritten := rfl
@[simp] theorem setAdcSel_traceRev (src : Source) : (setAdcSel src s).traceRev = s.traceRev := rfl
@[simp] theorem setAdcSel_adcLog (src : Source) : (setAdcSel src s).adcLog = s.adcLog := rfl
@[simp] theorem setAdcSel_cfg (src : Source) : (setAdcSel src s).cfg = s.cfg := rfl
@[simp] theorem setAdcSel_seq (src : Source) : (setAdcSel src s).seq = s.seq := rfl
@[simp] theorem setAdcSel_host (src : Source) : (setAdcSel src s).host = s.host := rfl
@[simp] theorem setAdcSel_resReads (src : Source) : (setAdcSel src s).resReads = s.resReads := rfl
@[simp] theorem setAdcSel_tick (src : Source) : (setAdcSel src s).tick = s.tick := rfl

/-! `setAdcDone`. -/

@[simp] theorem setAdcDone_sdaDrv (b : Bool) : (setAdcDone b s).sdaDrv = s.sdaDrv := rfl
@[simp] theorem setAdcDone_sclDrv (b : Bool) : (setAdcDone b s).sclDrv = s.sclDrv := rfl
@[simp] theorem setAdcDone_phase (b : Bool) : (setAdcDone b s).phase = s.phase := rfl
@[simp] theorem setAdcDone_adcSel (b : Bool) : (setAdcDone b s).adcSel = s.adcSel := rfl
@[simp] theorem setAdcDone_adcDone (b : Bool) : (setAdcDone b s).adcDone = b := rfl
@[simp] theorem setAdcDone_adcData (b : Bool) : (setAdcDone b s).adcData = s.adcData := rfl
@[simp] theorem setAdcDone_res (b : Bool) : (setAdcDone b s).res = s.res := rfl
@[simp] theorem setAdcDone_resWritten (b : Bool) : (setAdcDone b s).resWritten = s.resWritten := rfl
@[simp] theorem setAdcDone_traceRev (b : Bool) : (setAdcDone b s).traceRev = s.traceRev := rfl
@[simp] theorem setAdcDone_adcLog (b : Bool) : (setAdcDone b s).adcLog = s.adcLog := rfl
@[simp] theorem setAdcDone_cfg (b : Bool) : (setAdcDone b s).cfg = s.cfg := rfl
@[simp] theorem setAdcDone_seq (b : Bool) : (setAdcDone b s).seq = s.seq := rfl
@[simp] theorem setAdcDone_host (b : Bool) : (setAdcDone b s).host = s.host := rfl
@[simp] theorem setAdcDone_resReads (b : Bool) : (setAdcDone b s).resReads = s.resReads := rfl
@[simp] theorem setAdcDone_tick (b : Bool) : (setAdcDone b s).tick = s.tick := rfl

/-! `adcEvent`. -/

@[simp] theorem adcEvent_sdaDrv (e : AdcEvent) : (adcEvent e s).sdaDrv = s.sdaDrv := rfl
@[simp] theorem adcEvent_sclDrv (e : AdcEvent) : (adcEvent e s).sclDrv = s.sclDrv := rfl
@[simp] theorem adcEvent_phase (e : AdcEvent) : (adcEvent e s).phase = s.phase := rfl
@[simp] theorem adcEvent_adcSel (e : AdcEvent) : (adcEvent e s).adcSel = s.adcSel := rfl
@[simp] theorem adcEvent_adcDone (e : AdcEvent) : (adcEvent e s).adcDone = s.adcDone := rfl
@[simp] theorem adcEvent_adcData (e : AdcEvent) : (adcEvent e s).adcData = s.adcData := rfl
@[simp] theorem adcEvent_res (e : AdcEvent) : (adcEvent e s).res = s.res := rfl
@[simp] theorem adcEvent_resWritten (e : AdcEvent) : (adcEvent e s).resWritten = s.resWritten := rfl
@[simp] theorem adcEvent_traceRev (e : AdcEvent) : (adcEvent e s).traceRev = s.traceRev := rfl
@[simp] theorem adcEvent_adcLog (e : AdcEvent) : (adcEvent e s).adcLog = s.adcLog ++ [e] := rfl
@[simp] theorem adcEvent_cfg (e : AdcEvent) : (adcEvent e s).cfg = s.cfg := rfl
@[simp] theorem adcEvent_seq (e : AdcEvent) : (adcEvent e s).seq = s.seq := rfl
@[simp] theorem adcEvent_host (e : AdcEvent) : (adcEvent e s).host = s.host := rfl
@[simp] theorem adcEvent_resReads (e : AdcEvent) : (adcEvent e s).resReads = s.resReads := rfl
@[simp] theorem adcEvent_tick (e : AdcEvent) : (adcEvent e s).tick = s.tick := rfl

/-! `writeRes`. -/

@[simp] theorem writeRes_sdaDrv (v : Half) : (writeRes v s).sdaDrv = s.sdaDrv := rfl
@[simp] theorem writeRes_sclDrv (v : Half) : (writeRes v s).sclDrv = s.sclDrv := rfl
@[simp] theorem writeRes_phase (v : Half) : (writeRes v s).phase = s.phase := rfl
@[simp] theorem writeRes_adcSel (v : Half) : (writeRes v s).adcSel = s.adcSel := rfl
@[simp] theorem writeRes_adcDone (v : Half) : (writeRes v s).adcDone = s.adcDone := rfl
@[simp] theorem writeRes_adcData (v : Half) : (writeRes v s).adcData = s.adcData := rfl
@[simp] theorem writeRes_res (v : Half) : (writeRes v s).res = v := rfl
@[simp] theorem writeRes_resWritten (v : Half) : (writeRes v s).resWritten = true := rfl
@[simp] theorem writeRes_traceRev (v : Half) : (writeRes v s).traceRev = s.traceRev := rfl
@[simp] theorem writeRes_adcLog (v : Half) : (writeRes v s).adcLog = s.adcLog := rfl
@[simp] theorem writeRes_cfg (v : Half) : (writeRes v s).cfg = s.cfg := rfl
@[simp] theorem writeRes_seq (v : Half) : (writeRes v s).seq = s.seq := rfl
@[simp] theorem writeRes_host (v : Half) : (writeRes v s).host = s.host := rfl
@[simp] theorem writeRes_resReads (v : Half) : (writeRes v s).resReads = s.resReads := rfl
@[simp] theorem writeRes_tick (v : Half) : (writeRes v s).tick = s.tick := rfl

/-! `answerWith`. -/

@[simp] theorem answerWith_sdaDrv (raw : Sample) : (answerWith raw s).sdaDrv = s.sdaDrv := rfl
@[simp] theorem answerWith_sclDrv (raw : Sample) : (answerWith raw s).sclDrv = s.sclDrv := rfl
@[simp] theorem answerWith_phase (raw : Sample) : (answerWith raw s).phase = s.phase := rfl
@[simp] theorem answerWith_adcSel (raw : Sample) : (answerWith raw s).adcSel = s.adcSel := rfl
@[simp] theorem answerWith_adcDone (raw : Sample) : (answerWith raw s).adcDone = true := rfl
@[simp] theorem answerWith_adcData (raw : Sample) : (answerWith raw s).adcData = raw := rfl
@[simp] theorem answerWith_res (raw : Sample) : (answerWith raw s).res = s.res := rfl
@[simp] theorem answerWith_resWritten (raw : Sample) : (answerWith raw s).resWritten = s.resWritten := rfl
@[simp] theorem answerWith_traceRev (raw : Sample) : (answerWith raw s).traceRev = s.traceRev := rfl
@[simp] theorem answerWith_adcLog (raw : Sample) : (answerWith raw s).adcLog = s.adcLog := rfl
@[simp] theorem answerWith_cfg (raw : Sample) : (answerWith raw s).cfg = s.cfg := rfl
@[simp] theorem answerWith_seq (raw : Sample) : (answerWith raw s).seq = s.seq := rfl
@[simp] theorem answerWith_host (raw : Sample) : (answerWith raw s).host = s.host := rfl
@[simp] theorem answerWith_resReads (raw : Sample) : (answerWith raw s).resReads = s.resReads := rfl
@[simp] theorem answerWith_tick (raw : Sample) : (answerWith raw s).tick = s.tick := rfl

/-! `tickOn`. -/

@[simp] theorem tickOn_sdaDrv : (tickOn s).sdaDrv = s.sdaDrv := rfl
@[simp] theorem tickOn_sclDrv : (tickOn s).sclDrv = s.sclDrv := rfl
@[simp] theorem tickOn_phase : (tickOn s).phase = s.phase := rfl
@[simp] theorem tickOn_adcSel : (tickOn s).adcSel = s.adcSel := rfl
@[simp] theorem tickOn_adcDone : (tickOn s).adcDone = s.adcDone := rfl
@[simp] theorem tickOn_adcData : (tickOn s).adcData = s.adcData := rfl
@[simp] theorem tickOn_res : (tickOn s).res = s.res := rfl
@[simp] theorem tickOn_resWritten : (tickOn s).resWritten = s.resWritten := rfl
@[simp] theorem tickOn_traceRev : (tickOn s).traceRev = s.traceRev := rfl
@[simp] theorem tickOn_adcLog : (tickOn s).adcLog = s.adcLog := rfl
@[simp] theorem tickOn_cfg : (tickOn s).cfg = s.cfg := rfl
@[simp] theorem tickOn_seq : (tickOn s).seq = s.seq := rfl
@[simp] theorem tickOn_host : (tickOn s).host = s.host := rfl
@[simp] theorem tickOn_resReads : (tickOn s).resReads = s.resReads := rfl
@[simp] theorem tickOn_tick : (tickOn s).tick = s.tick + 1 := rfl

/-! `afterActions`. -/

@[simp] theorem afterActions_sdaDrv (acts : List PinAction) (sda scl : Drive) (p : Phase) : (afterActions acts sda scl p s).sdaDrv = sda := rfl
@[simp] theorem afterActions_sclDrv (acts : List PinAction) (sda scl : Drive) (p : Phase) : (afterActions acts sda scl p s).sclDrv = scl := rfl
@[simp] theorem afterActions_phase (acts : List PinAction) (sda scl : Drive) (p : Phase) : (afterActions acts sda scl p s).phase = p := rfl
@[simp] theorem afterActions_adcSel (acts : List PinAction) (sda scl : Drive) (p : Phase) : (afterActions acts sda scl p s).adcSel = s.adcSel := rfl
@[simp] theorem afterActions_adcDone (acts : List PinAction) (sda scl : Drive) (p : Phase) : (afterActions acts sda scl p s).adcDone = s.adcDone := rfl
@[simp] theorem afterActions_adcData (acts : List PinAction) (sda scl : Drive) (p : Phase) : (afterActions acts sda scl p s).adcData = s.adcData := rfl
@[simp] theorem afterActions_res (acts : List PinAction) (sda scl : Drive) (p : Phase) : (afterActions acts sda scl p s).res = s.res := rfl
@[simp] theorem afterActions_resWritten (acts : List PinAction) (sda scl : Drive) (p : Phase) : (afterActions acts sda scl p s).resWritten = s.resWritten := rfl
@[simp] theorem afterActions_traceRev (acts : List PinAction) (sda scl : Drive) (p : Phase) : (afterActions acts sda scl p s).traceRev = acts.reverse ++ s.traceRev := rfl
@[simp] theorem afterActions_adcLog (acts : List PinAction) (sda scl : Drive) (p : Phase) : (afterActions acts sda scl p s).adcLog = s.adcLog := rfl
@[simp] theorem afterActions_cfg (acts : List PinAction) (sda scl : Drive) (p : Phase) : (afterActions acts sda scl p s).cfg = s.cfg := rfl
@[simp] theorem afterActions_seq (acts : List PinAction) (sda scl : Drive) (p : Phase) : (afterActions acts sda scl p s).seq = s.seq := rfl
@[simp] theorem afterActions_host (acts : List PinAction) (sda scl : Drive) (p : Phase) : (afterActions acts sda scl p s).host = s.host := rfl
@[simp] theorem afterActions_resReads (acts : List PinAction) (sda scl : Drive) (p : Phase) : (afterActions acts sda scl p s).resReads = s.resReads := rfl
@[simp] theorem afterActions_tick (acts : List PinAction) (sda scl : Drive) (p : Phase) : (afterActions acts sda scl p s).tick = s.tick := rfl

/-! `emit`: the driver it names, and nothing else but the trace. -/

@[simp] theorem emit_phase (a : PinAction) : (emit a s).phase = s.phase := by cases a <;> rfl
@[simp] theorem emit_adcSel (a : PinAction) : (emit a s).adcSel = s.adcSel := by cases a <;> rfl
@[simp] theorem emit_adcDone (a : PinAction) : (emit a s).adcDone = s.adcDone := by cases a <;> rfl
@[simp] theorem emit_adcData (a : PinAction) : (emit a s).adcData = s.adcData := by cases a <;> rfl
@[simp] theorem emit_res (a : PinAction) : (emit a s).res = s.res := by cases a <;> rfl
@[simp] theorem emit_resWritten (a : PinAction) : (emit a s).resWritten = s.resWritten := by cases a <;> rfl
@[simp] theorem emit_adcLog (a : PinAction) : (emit a s).adcLog = s.adcLog := by cases a <;> rfl
@[simp] theorem emit_cfg (a : PinAction) : (emit a s).cfg = s.cfg := by cases a <;> rfl
@[simp] theorem emit_seq (a : PinAction) : (emit a s).seq = s.seq := by cases a <;> rfl
@[simp] theorem emit_host (a : PinAction) : (emit a s).host = s.host := by cases a <;> rfl
@[simp] theorem emit_resReads (a : PinAction) : (emit a s).resReads = s.resReads := by cases a <;> rfl
@[simp] theorem emit_tick (a : PinAction) : (emit a s).tick = s.tick := by cases a <;> rfl
@[simp] theorem emit_traceRev (a : PinAction) : (emit a s).traceRev = a :: s.traceRev := by cases a <;> rfl

/-! `TRACE` in order. -/

@[simp] theorem trace_emit (a : PinAction) : (emit a s).trace = s.trace ++ [a] := by
  simp [State.trace]

@[simp] theorem trace_afterActions (acts : List PinAction) (sda scl : Drive) (p : Phase) :
    (afterActions acts sda scl p s).trace = s.trace ++ acts := by
  simp [State.trace]

theorem trace_congr {s t : State} (h : s.traceRev = t.traceRev) : s.trace = t.trace := by
  simp [State.trace, h]

@[simp] theorem afterActions_drives (acts : List PinAction) (sda scl : Drive) (p : Phase) :
    (afterActions acts sda scl p s).drives = ⟨sda, scl⟩ := rfl

/-! Reset. -/

@[simp] theorem resetWith_sdaDrv (c : Config) : (State.resetWith c).sdaDrv = .rel := rfl
@[simp] theorem resetWith_sclDrv (c : Config) : (State.resetWith c).sclDrv = .rel := rfl
@[simp] theorem resetWith_phase (c : Config) : (State.resetWith c).phase = .uninit := rfl
@[simp] theorem resetWith_adcSel (c : Config) : (State.resetWith c).adcSel = none := rfl
@[simp] theorem resetWith_adcDone (c : Config) : (State.resetWith c).adcDone = false := rfl
@[simp] theorem resetWith_adcData (c : Config) : (State.resetWith c).adcData = 0 := rfl
@[simp] theorem resetWith_res (c : Config) : (State.resetWith c).res = 0 := rfl
@[simp] theorem resetWith_resWritten (c : Config) : (State.resetWith c).resWritten = false := rfl
@[simp] theorem resetWith_traceRev (c : Config) : (State.resetWith c).traceRev = [] := rfl
@[simp] theorem resetWith_adcLog (c : Config) : (State.resetWith c).adcLog = [] := rfl
@[simp] theorem resetWith_cfg (c : Config) : (State.resetWith c).cfg = c := rfl
@[simp] theorem resetWith_seq (c : Config) : (State.resetWith c).seq = .idle := rfl
@[simp] theorem resetWith_host (c : Config) : (State.resetWith c).host = [] := rfl
@[simp] theorem resetWith_resReads (c : Config) : (State.resetWith c).resReads = [] := rfl
@[simp] theorem resetWith_tick (c : Config) : (State.resetWith c).tick = 0 := rfl

end Sys2Proof.Machine
end

