-- ==== Sys2Proof/Laws/Ops.lean ====
section
/-! SUPPORT. What each shared operation does, once: admission, ROM reads, and the closed form of the bodies of the Bus
Driver and of `TXN`. -/

namespace Sys2Proof.Machine

/-! Admission and sequencing. -/

@[simp] theorem checkThen_nil (s : State) (body : State → Result) : checkThen [] s body = body s := rfl

@[simp] theorem checkThen_cons (ok : Bool) (r : Refusal) (rest : List (Bool × Refusal)) (s : State)
    (body : State → Result) :
    checkThen ((ok, r) :: rest) s body = if ok then checkThen rest s body else .refused r := rfl

@[simp] theorem thenDo_next (s : State) (f : State → Result) : thenDo (.next s) f = f s := rfl

@[simp] theorem thenDo_refused (r : Refusal) (f : State → Result) : thenDo (.refused r) f = .refused r := rfl

/-- What `checkThen` answers `next` to: every check held, and the body answered it. -/
theorem checkThen_eq_next {checks : List (Bool × Refusal)} {s t : State} {body : State → Result} :
    checkThen checks s body = .next t ↔ (∀ c ∈ checks, c.1 = true) ∧ body s = .next t := by
  induction checks with
  | nil => simp
  | cons c rest ih =>
    obtain ⟨ok, r⟩ := c
    cases ok <;> simp [ih]

/-- What `thenDo` answers `next` to. -/
theorem thenDo_eq_next {o : Result} {f : State → Result} {t : State} :
    thenDo o f = .next t ↔ ∃ s, o = .next s ∧ f s = .next t := by
  cases o <;> simp [thenDo]

/-! Emitting lists of actions. -/

/-- One list of actions after another. -/
@[simp] theorem afterActions_afterActions (a₁ a₂ : List PinAction) (d₁ c₁ d₂ c₂ : Drive) (p₁ p₂ : Phase)
    (s : State) :
    afterActions a₂ d₂ c₂ p₂ (afterActions a₁ d₁ c₁ p₁ s) = afterActions (a₁ ++ a₂) d₂ c₂ p₂ s := by
  simp [afterActions]

/-- One bit of BUS.WRITE. -/
theorem sendBits_cons (v : Byte) (k : Nat) (rest : List Nat) (s : State) :
    sendBits v (k :: rest) s =
      sendBits v rest
        (afterActions (bitActions (byteBit v k)) (if byteBit v k then .rel else .low) .low s.phase s) := by
  cases h : byteBit v k <;> simp [sendBits, h, emit, afterActions, bitActions]

/-- The bits of BUS.WRITE that are left, followed by the acknowledgment slot. -/
theorem sendBits_ack (v : Byte) (ks : List Nat) (s : State) :
    emit .sclLow (emit .nop (emit .sclRel (emit .sdaRel (sendBits v ks s)))) =
      afterActions (ks.flatMap (fun k => bitActions (byteBit v k)) ++ [.sdaRel, .sclRel, .nop, .sclLow])
        .rel .low s.phase s := by
  induction ks generalizing s with
  | nil => simp [sendBits, emit, afterActions]
  | cons k rest ih => simp [sendBits_cons, ih]

/-- BUS.WRITE's body: the actions of one byte; data released and clock low after it. -/
theorem busWriteBody_eq (v : Byte) (s : State) :
    busWriteBody v s = afterActions (byteActions v) .rel .low s.phase s :=
  sendBits_ack v bitOrder s

/-- BUS.INIT's body. -/
theorem busInitBody_eq (s : State) : busInitBody s = afterActions [.sclRel, .sdaRel] .rel .rel .idle s := rfl

/-- BUS.STOP's body. -/
theorem busStopBody_eq (s : State) : busStopBody s = afterActions stopActions .rel .rel .idle s := rfl

/-- `STARTCOND`, in either order. -/
theorem startCond_eq (s : State) :
    startCond s = afterActions (startCondActions s.cfg.startOrder) .low .low s.phase s := by
  cases h : s.cfg.startOrder <;> simp [startCond, h, emit, afterActions, startCondActions]

/-- `PHASE <- p` after a list of actions. -/
@[simp] theorem setPhase_afterActions (acts : List PinAction) (sda scl : Drive) (p q : Phase) (s : State) :
    setPhase q (afterActions acts sda scl p s) = afterActions acts sda scl q s := rfl

/-- BUS.START's body. -/
theorem busStartBody_eq (a : Byte) (s : State) :
    busStartBody a s = afterActions (startActions s.cfg.startOrder a) .rel .low .transmitting s := by
  simp [busStartBody, startCond_eq, busWriteBody_eq, startActions]

/-- A list of BUS.WRITE bodies, with the stop that closes them. -/
theorem writeAll_stop (bs : List Byte) (s : State) :
    busStopBody (writeAll bs s) = afterActions (bs.flatMap byteActions ++ stopActions) .rel .rel .idle s := by
  induction bs generalizing s with
  | nil => simp [writeAll, busStopBody_eq]
  | cons b rest ih => simp [writeAll, ih, busWriteBody_eq]

/-- `TXN`: the actions of one whole transaction; the bus is idle after it. -/
theorem txn_eq (ctrl : Byte) (bs : List Byte) (s : State) :
    txn ctrl bs s =
      afterActions (wireActions s.cfg.startOrder (txnBytes s.cfg ctrl bs)) .rel .rel .idle s := by
  simp [txn, writeAll_stop, busStartBody_eq, busWriteBody_eq, wireActions, txnBytes, startActions]

/-- DSP.CURSOR's body. -/
theorem cursorBody_eq (column : Byte) (page : BitVec 4) (s : State) :
    cursorBody column page s =
      afterActions (wireActions s.cfg.startOrder (cursorTxn s.cfg column page)) .rel .rel .idle s :=
  txn_eq _ _ _

/-! ROM reads. -/

/-- R51, GLYPHROM: byte `k` of entry `idx`. -/
theorem memRead_glyphRom {c : Config} {g : List Byte} {b : Byte} {idx k : Nat} (hk : k < 6) (hi : idx < 14)
    (hg : c.glyph[idx]? = some g) (hb : g[k]? = some b) :
    memRead c .glyphRom (6 * idx + k) 1 = some (b.setWidth 16) := by
  have h1 : (6 * idx + k) / 6 = idx := by omega
  have h2 : (6 * idx + k) % 6 = k := by omega
  have h3 : 6 * idx + k < 84 := by omega
  simp [memRead, h1, h2, h3, hg, hb]

/-- A byte read through the 16-bit result of `MemRead` is the byte. -/
@[simp] theorem setWidth_byte (b : Byte) : (b.setWidth 16).setWidth 8 = b := by
  ext i hi
  simp

/-- R52: the six bytes of a glyph, where the table has the entry with its six bytes. -/
theorem glyphBytes_eq {c : Config} {g : List Byte} {idx : Nat} (hi : idx < 14) (hg : c.glyph[idx]? = some g)
    (hl : g.length = 6) : glyphBytes c idx = some g := by
  match g, hl with
  | [b0, b1, b2, b3, b4, b5], _ =>
    have h0 := memRead_glyphRom (k := 0) (by omega) hi hg (b := b0) rfl
    have h1 := memRead_glyphRom (k := 1) (by omega) hi hg (b := b1) rfl
    have h2 := memRead_glyphRom (k := 2) (by omega) hi hg (b := b2) rfl
    have h3 := memRead_glyphRom (k := 3) (by omega) hi hg (b := b3) rfl
    have h4 := memRead_glyphRom (k := 4) (by omega) hi hg (b := b4) rfl
    have h5 := memRead_glyphRom (k := 5) (by omega) hi hg (b := b5) rfl
    simp only [Nat.add_zero] at h0
    simp [glyphBytes, glyphW, List.range_succ, memReadBytes, h0, h1, h2, h3, h4, h5]

/-- DSP.GLYPH's body, where the table has the entry. -/
theorem glyphBody_eq {s : State} {g : List Byte} {idx : Nat} (h : glyphBytes s.cfg idx = some g) :
    glyphBody idx s =
      .next (afterActions (wireActions s.cfg.startOrder (txnBytes s.cfg ctrlData g)) .rel .rel .idle s) := by
  simp [glyphBody, h, txn_eq]

/-- DSP.CLEAR's loop over columns. -/
theorem clearColumns_cases (pg : Nat) (cls : List Nat) (s : State) :
    clearColumns pg cls s = afterActions
      ((cls.flatMap fun cl => [cursorTxn s.cfg (BitVec.ofNat 8 cl) (BitVec.ofNat 4 pg),
        txnBytes s.cfg ctrlData [0x00]]).flatMap (wireActions s.cfg.startOrder))
      (if cls = [] then s.sdaDrv else .rel) (if cls = [] then s.sclDrv else .rel)
      (if cls = [] then s.phase else .idle) s := by
  induction cls generalizing s with
  | nil => simp [clearColumns, afterActions]
  | cons cl rest ih =>
    by_cases hr : rest = [] <;>
      simp [clearColumns, ih, clearCell, cursorBody_eq, txn_eq, hr]

/-- DSP.CLEAR's loop over pages. -/
theorem clearPages_cases (pgs : List Nat) (s : State) :
    clearPages pgs s = afterActions
      ((pgs.flatMap fun pg => (List.range nCols).flatMap fun cl =>
        [cursorTxn s.cfg (BitVec.ofNat 8 cl) (BitVec.ofNat 4 pg),
          txnBytes s.cfg ctrlData [0x00]]).flatMap (wireActions s.cfg.startOrder))
      (if pgs = [] then s.sdaDrv else .rel) (if pgs = [] then s.sclDrv else .rel)
      (if pgs = [] then s.phase else .idle) s := by
  induction pgs generalizing s with
  | nil => simp [clearPages, afterActions]
  | cons pg rest ih =>
    have hc : List.range nCols ≠ [] := by simp [nCols]
    by_cases hr : rest = [] <;>
      simp [clearPages, ih, clearColumns_cases, hc, hr]

/-! Whatever the tables, a Display operation makes whole transactions and ends idle, or is ROM_INDEX. -/

/-- What a part of a Display operation can answer. -/
def TxnsAnswer (s : State) (r : Result) : Prop :=
  (∃ ts : List (List Byte), (∀ b ∈ ts, b ≠ []) ∧
      r = .next (afterActions (ts.flatMap (wireActions s.cfg.startOrder)) .rel .rel .idle s)) ∨
    r = .refused .romIndex

theorem txnsAnswer_txn (ctrl : Byte) (bs : List Byte) (s : State) : TxnsAnswer s (.next (txn ctrl bs s)) :=
  .inl ⟨[txnBytes s.cfg ctrl bs], by simp [txnBytes], by simp [txn_eq]⟩

theorem txnsAnswer_glyphBody (idx : Nat) (s : State) : TxnsAnswer s (glyphBody idx s) := by
  unfold glyphBody
  split
  · exact txnsAnswer_txn _ _ s
  · exact .inr rfl

theorem txnsAnswer_thenDo {s : State} {r : Result} {f : State → Result} (hr : TxnsAnswer s r)
    (hf : ∀ s', TxnsAnswer s' (f s')) : TxnsAnswer s (thenDo r f) := by
  rcases hr with ⟨ts, hts, rfl⟩ | rfl
  · rcases hf (afterActions (ts.flatMap (wireActions s.cfg.startOrder)) .rel .rel .idle s) with
      ⟨ts', hts', h⟩ | h
    · refine .inl ⟨ts ++ ts', ?_, by simp [h]⟩
      intro b hb
      rcases List.mem_append.1 hb with hb | hb
      · exact hts b hb
      · exact hts' b hb
    · exact .inr (by simp [h])
  · exact .inr rfl

theorem txnsAnswer_putGlyph (g : Nat) (page : BitVec 4) (cc : Byte) (s : State) :
    TxnsAnswer s (putGlyph g page cc s) :=
  txnsAnswer_thenDo (r := .next (cursorBody cc page s)) (txnsAnswer_txn _ _ s) fun s' => txnsAnswer_glyphBody g s'

theorem txnsAnswer_putPlaces (page : BitVec 4) (v : Nat) (ps : List Nat) (lead : Bool) (cc : Byte) (s : State) :
    TxnsAnswer s (putPlaces page v ps lead cc s) := by
  induction ps generalizing lead cc s with
  | nil => exact txnsAnswer_thenDo (txnsAnswer_putGlyph ..) fun _ => txnsAnswer_putGlyph ..
  | cons p rest ih => exact txnsAnswer_thenDo (txnsAnswer_putGlyph ..) fun _ => ih ..

theorem txnsAnswer_intBody (v : Half) (col : BitVec 7) (page : BitVec 4) (s : State) :
    TxnsAnswer s (intBody v col page s) := by
  unfold intBody
  split
  · exact txnsAnswer_thenDo (txnsAnswer_putGlyph ..) fun _ => txnsAnswer_putPlaces ..
  · exact txnsAnswer_putPlaces ..

/-- DSP.CLEAR's whole loop. -/
theorem clear_eq (s : State) :
    clearPages (List.range nPages) s =
      afterActions ((clearTxns s.cfg).flatMap (wireActions s.cfg.startOrder)) .rel .rel .idle s := by
  have h : List.range nPages ≠ [] := by simp [nPages]
  simp [clearPages_cases, h, clearTxns]

theorem clearTxns_ne_nil (c : Config) : ∀ b ∈ clearTxns c, b ≠ [] := by
  intro b hb
  simp only [clearTxns, List.mem_flatMap] at hb
  obtain ⟨_, _, _, _, hb⟩ := hb
  rcases List.mem_cons.1 hb with rfl | hb
  · simp [cursorTxn, txnBytes]
  · rw [List.mem_singleton] at hb
    subst hb
    simp [txnBytes]

theorem txnsAnswer_clear (s : State) : TxnsAnswer s (.next (clearPages (List.range nPages) s)) :=
  .inl ⟨clearTxns s.cfg, clearTxns_ne_nil _, by rw [clear_eq]⟩

end Sys2Proof.Machine
end

