-- ==== Sys2Proof/Laws/Exec.lean ====
section
/-! SUPPORT. Everything an operation can do, once: the inversion lemma of `exec`, cited instead of unfolding it. -/

namespace Sys2Proof.Machine

/-- The ways `exec` can answer a next state, guards included. -/
inductive ExecStep (s : State) : Instr → State → Prop
  | busInit (hp : s.phase ≠ .transmitting) :
      ExecStep s .busInit (afterActions [.sclRel, .sdaRel] .rel .rel .idle s)
  | busStart (a : Byte) (hp : s.phase = .idle) :
      ExecStep s (.busStart a) (afterActions (startActions s.cfg.startOrder a) .rel .low .transmitting s)
  | busWrite (v : Byte) (hp : s.phase = .transmitting) :
      ExecStep s (.busWrite v) (afterActions (byteActions v) .rel .low .transmitting s)
  | busStop (hp : s.phase = .transmitting) :
      ExecStep s .busStop (afterActions stopActions .rel .rel .idle s)
  | display (i : Instr) (ts : List (List Byte)) (hp : s.phase = .idle) (hts : ∀ b ∈ ts, b ≠ [])
      (hi : i ∈ [.dspInit, .dspClear] ∨ (∃ c p, i = .dspCursor c p) ∨ (∃ g, i = .dspGlyph g) ∨
        ∃ v c p, i = .dspInt v c p) :
      ExecStep s i (afterActions (ts.flatMap (wireActions s.cfg.startOrder)) .rel .rel .idle s)
  | adcCfgi : ExecStep s .adcCfgi (adcEvent (.cfg .internal) (setAdcSel .internal s))
  | adcCfgt : ExecStep s .adcCfgt (adcEvent (.cfg .thermocouple) (setAdcSel .thermocouple s))
  | adcSample (hc : s.adcSel ≠ none) : ExecStep s .adcSample (setSeq .sampleWait (startConversion s))
  | acqAvg (hc : s.adcSel ≠ none) : ExecStep s .acqAvg (setSeq (.avgWait 1 0) (startConversion s))
  | linInt (avg : Sample) :
      ExecStep s (.linInt avg) (writeRes (BitVec.ofInt 16 (linCelsius s.cfg avg.toNat)) s)
  | linTc (avg : Half) (v : Half) (hb : tcBucket avg.toNat < s.cfg.nBuckets) :
      ExecStep s (.linTc avg) (writeRes v s)

theorem of_txnsAnswer {s t : State} {r : Result} (h : TxnsAnswer s r) (ht : r = .next t) :
    ∃ ts : List (List Byte), (∀ b ∈ ts, b ≠ []) ∧
      t = afterActions (ts.flatMap (wireActions s.cfg.startOrder)) .rel .rel .idle s := by
  rcases h with ⟨ts, hts, rfl⟩ | rfl
  · cases ht
    exact ⟨ts, hts, rfl⟩
  · cases ht

/-- An operation that answers a next state did one of these. -/
theorem exec_cases {i : Instr} {s t : State} (h : exec i s = .next t) : ExecStep s i t := by
  cases i with
  | busInit =>
    obtain ⟨hc, hb⟩ := checkThen_eq_next.1 h
    cases hb
    exact .busInit (by simpa using hc)
  | busStart a =>
    obtain ⟨hc, hb⟩ := checkThen_eq_next.1 h
    have hp : s.phase = .idle := by simpa using hc
    cases hb
    rw [busStartBody_eq]
    exact .busStart a hp
  | busWrite v =>
    obtain ⟨hc, hb⟩ := checkThen_eq_next.1 h
    have hp : s.phase = .transmitting := by simpa using hc
    cases hb
    rw [busWriteBody_eq, hp]
    exact .busWrite v hp
  | busStop =>
    obtain ⟨hc, hb⟩ := checkThen_eq_next.1 h
    cases hb
    exact .busStop (by simpa using hc)
  | dspInit =>
    obtain ⟨hc, hb⟩ := checkThen_eq_next.1 h
    obtain ⟨ts, hts, rfl⟩ := of_txnsAnswer (txnsAnswer_txn _ _ s) hb
    exact .display _ ts (by simpa [idlePhase] using hc) hts (by simp)
  | dspCursor c p =>
    obtain ⟨hc, hb⟩ := checkThen_eq_next.1 h
    obtain ⟨ts, hts, rfl⟩ := of_txnsAnswer (txnsAnswer_txn _ _ s) hb
    exact .display _ ts (by simpa [idlePhase] using hc) hts (by simp)
  | dspClear =>
    obtain ⟨hc, hb⟩ := checkThen_eq_next.1 h
    obtain ⟨ts, hts, rfl⟩ := of_txnsAnswer (txnsAnswer_clear s) hb
    exact .display _ ts (by simpa [idlePhase] using hc) hts (by simp)
  | dspGlyph g =>
    obtain ⟨hc, hb⟩ := checkThen_eq_next.1 h
    obtain ⟨ts, hts, rfl⟩ := of_txnsAnswer (txnsAnswer_glyphBody _ s) hb
    simp only [idlePhase, List.forall_mem_cons, decide_eq_true_eq] at hc
    exact .display _ ts hc.1 hts (by simp)
  | dspInt v c p =>
    obtain ⟨hc, hb⟩ := checkThen_eq_next.1 h
    obtain ⟨ts, hts, rfl⟩ := of_txnsAnswer (txnsAnswer_intBody v c p s) hb
    simp only [idlePhase, List.forall_mem_cons, decide_eq_true_eq] at hc
    exact .display _ ts hc.1 hts (by simp)
  | adcCfgi => cases h; exact .adcCfgi
  | adcCfgt => cases h; exact .adcCfgt
  | adcSample =>
    obtain ⟨hc, hb⟩ := checkThen_eq_next.1 h
    cases hb
    exact .adcSample (by simpa [configured] using hc)
  | acqAvg =>
    obtain ⟨hc, hb⟩ := checkThen_eq_next.1 h
    cases hb
    exact .acqAvg (by simpa [configured] using hc)
  | linInt avg => cases h; exact .linInt avg
  | linTc avg =>
    obtain ⟨hc, hb⟩ := checkThen_eq_next.1 h
    simp only [linTcBody, refuse] at hb
    split at hb
    · cases hb
      exact .linTc avg _ (by simpa using hc)
    · cases hb

/-- The block never faults (R180). -/
theorem exec_ne_fault (i : Instr) (s : State) (r : Fault) : exec i s ≠ .fault r := nomatch r

end Sys2Proof.Machine
end

