-- ==== Sys2Proof/Laws/Memory.lean ====
section
/-! SUPPORT. The frame buffer of the reference display: a store is read back, leaves every other address alone, and
keeps the canonical form. -/

namespace Sys2Proof.Machine

@[simp] theorem memLookup_memStore_self (m : Memory) (a : Nat) (b : Byte) :
    memLookup (memStore m a b) a = some b := by
  induction m with
  | nil => simp [memStore, memLookup]
  | cons c rest ih =>
    obtain ⟨x, y⟩ := c
    unfold memStore
    split
    · simp [memLookup]
    · split
      · simp [memLookup]
      · simp [memLookup, *]

theorem memLookup_memStore_ne {m : Memory} {a a' : Nat} {b : Byte} (h : a' ≠ a) :
    memLookup (memStore m a b) a' = memLookup m a' := by
  induction m with
  | nil => simp [memStore, memLookup, h.symm]
  | cons c rest ih =>
    obtain ⟨x, y⟩ := c
    unfold memStore
    split
    · simp [memLookup, h.symm]
    · split
      · rename_i hx
        subst hx
        simp [memLookup, h.symm]
      · by_cases hx : x = a' <;> simp [memLookup, hx, ih]

/-- The address a memory begins with, after a store. -/
theorem memStore_head (m : Memory) (a : Nat) (b : Byte) :
    ∃ rest x, memStore m a b = x :: rest ∧ (x.1 = a ∨ ∃ c r, m = c :: r ∧ x = c ∧ c.1 < a) := by
  cases m with
  | nil => exact ⟨[], (a, b), rfl, .inl rfl⟩
  | cons c rest =>
    obtain ⟨x, y⟩ := c
    unfold memStore
    split
    · exact ⟨_, _, rfl, .inl rfl⟩
    · split
      · exact ⟨_, _, rfl, .inl rfl⟩
      · exact ⟨_, _, rfl, .inr ⟨_, _, rfl, rfl, by simp; omega⟩⟩

/-- Every store keeps the canonical form. -/
theorem memStore_wf {m : Memory} (h : Memory.wf m = true) (a : Nat) (b : Byte) :
    Memory.wf (memStore m a b) = true := by
  induction m with
  | nil => rfl
  | cons c rest ih =>
    obtain ⟨x, y⟩ := c
    have hr : Memory.wf rest = true := by
      cases rest with
      | nil => rfl
      | cons d r => simp only [Memory.wf, Bool.and_eq_true] at h; exact h.2
    unfold memStore
    split
    · rename_i hlt
      simp only [Memory.wf, Bool.and_eq_true, decide_eq_true_eq]
      exact ⟨hlt, h⟩
    · split
      · rename_i hx
        subst hx
        cases rest with
        | nil => rfl
        | cons d r => exact h
      · rename_i h1 h2
        obtain ⟨r, z, hz, hcase⟩ := memStore_head rest a b
        rw [hz]
        have := ih hr
        rw [hz] at this
        simp only [Memory.wf, Bool.and_eq_true, decide_eq_true_eq]
        refine ⟨?_, this⟩
        rcases hcase with hza | ⟨c, r', hc, rfl, _⟩
        · omega
        · subst hc
          simp only [Memory.wf, Bool.and_eq_true, decide_eq_true_eq] at h
          exact h.1

end Sys2Proof.Machine
end

