-- ==== Sys2Proof/Laws/Observe.lean ====
section
/-! SUPPORT. The observation functions on one list of actions after another. -/

namespace Sys2Proof.Machine

@[simp] theorem replay_append (d : Drives) (a b : List PinAction) :
    replay d (a ++ b) = replay (replay d a) b := by
  induction a generalizing d with
  | nil => rfl
  | cons x rest ih => exact ih _

@[simp] theorem levelHistory_append (d : Drives) (a b : List PinAction) :
    levelHistory d (a ++ b) = levelHistory d a ++ levelHistory (replay d a) b := by
  induction a generalizing d with
  | nil => rfl
  | cons x rest ih => simp [levelHistory, replay, ih]

@[simp] theorem dataEdges_append (d : Drives) (a b : List PinAction) :
    dataEdges d (a ++ b) = dataEdges d a ++ dataEdges (replay d a) b := by
  induction a generalizing d with
  | nil => rfl
  | cons x rest ih => simp [dataEdges, replay, ih]

@[simp] theorem busEvents_append (d : Drives) (a b : List PinAction) :
    busEvents d (a ++ b) = busEvents d a ++ busEvents (replay d a) b := by
  induction a generalizing d with
  | nil => rfl
  | cons x rest ih => simp [busEvents, replay, ih]

/-- The decoder's loop over one list of events after another. -/
theorem decodeEvents_append (d : DecoderState) (a b : List BusEvent) :
    decodeEvents d (a ++ b) = (decodeEvents d a).bind fun d' => decodeEvents d' b := by
  induction a generalizing d with
  | nil => rfl
  | cons e rest ih =>
    cases h : decodeEvent d e with
    | ok d' => simp [decodeEvents, h, ih]
    | error f => simp [decodeEvents, h, Except.bind]

/-- The framing scan over one list of events after another. -/
theorem frameEvents_append (f : Framing) (a b : List BusEvent) :
    frameEvents f (a ++ b) = (frameEvents f a).bind fun f' => frameEvents f' b := by
  induction a generalizing f with
  | nil => rfl
  | cons e rest ih =>
    cases h : frameEvent f e with
    | some f' => simp [frameEvents, h, ih]
    | none => simp [frameEvents, h]

/-- Emitting one action applies it to the drivers (R100). -/
theorem drives_emit (a : PinAction) (s : State) : (emit a s).drives = applyAction s.drives a := by
  cases a <;> rfl

end Sys2Proof.Machine
end

