-- ==== Sys2Proof/Laws/PerInstr.lean ====
section
/-! SUPPORT. One statement per operation as syntax: the word the encoder gives it selects its own row of the opcode
map (30_encoding.md rule R72). -/

namespace Sys2Proof.Laws.EncodesInRow

/-- The encoded operation matches the row of R72 that the spec gives it. -/
def Statement (i : Instr) : Prop := selectsRow (encode i) i

theorem busInit : Statement .busInit := by unfold Statement selectsRow; decide

theorem busStart (b : Byte) : Statement (.busStart b) := by
  show pack 0x02 0 0 (b.setWidth 16) &&& pack 0x1F 0xF 0x7F 0xFF00#16 = _
  rw [pack_and, byte_and_mask]
  rfl

theorem busWrite (b : Byte) : Statement (.busWrite b) := by
  show pack 0x03 0 0 (b.setWidth 16) &&& pack 0x1F 0xF 0x7F 0xFF00#16 = _
  rw [pack_and, byte_and_mask]
  rfl

theorem busStop : Statement .busStop := by unfold Statement selectsRow; decide

theorem dspInit : Statement .dspInit := by unfold Statement selectsRow; decide

theorem dspCursor (column : BitVec 7) (page : BitVec 4) : Statement (.dspCursor column page) := by
  show pack 0x09 page column 0 &&& pack 0x1F 0#4 0#7 0xFFFF = _
  rw [pack_and, BitVec.and_zero, BitVec.and_zero]
  rfl

theorem dspClear : Statement .dspClear := by unfold Statement selectsRow; decide

theorem dspGlyph (idx : BitVec 4) : Statement (.dspGlyph idx) := by
  show pack 0x0B 0 0 (idx.setWidth 16) &&& pack 0x1F 0xF 0x7F 0xFFF0#16 = _
  rw [pack_and, index_and_mask]
  rfl

theorem dspInt (value : Half) (column : BitVec 7) (page : BitVec 4) : Statement (.dspInt value column page) := by
  show pack 0x0C page column value &&& pack 0x1F 0#4 0#7 0#16 = _
  rw [pack_and, BitVec.and_zero, BitVec.and_zero, BitVec.and_zero]
  rfl

theorem adcCfgi : Statement .adcCfgi := by unfold Statement selectsRow; decide

theorem adcCfgt : Statement .adcCfgt := by unfold Statement selectsRow; decide

theorem adcSample : Statement .adcSample := by unfold Statement selectsRow; decide

theorem acqAvg : Statement .acqAvg := by unfold Statement selectsRow; decide

theorem linInt (avg : Sample) : Statement (.linInt avg) := by
  show pack 0x14 0 0 (avg.setWidth 16) &&& pack 0x1F 0xF 0x7F 0xFC00#16 = _
  rw [pack_and, sample_and_mask]
  rfl

theorem linTc (avg : Half) : Statement (.linTc avg) := by
  show pack 0x15 0 0 avg &&& pack 0x1F 0xF 0x7F 0#16 = _
  rw [pack_and, BitVec.and_zero]
  rfl

end Sys2Proof.Laws.EncodesInRow
end

