-- ==== Sys2Proof/Laws/RefSlave.lean ====
section
/-! SUPPORT. The line side of the reference slave on one list of actions after another, and what it never does. -/

namespace Sys2Proof.Machine

/-- The slave sees the block's drive states. -/
@[simp] theorem slaveSees_drives (l : SlaveLine) (a : PinAction) :
    (slaveSees l a).drives = applyAction l.drives a := rfl

@[simp] theorem foldl_slaveSees_drives (l : SlaveLine) (acts : List PinAction) :
    (acts.foldl slaveSees l).drives = replay l.drives acts := by
  induction acts generalizing l with
  | nil => rfl
  | cons a rest ih => exact ih _

@[simp] theorem sampledLevels_append (acks : Bool) (l : SlaveLine) (a b : List PinAction) :
    sampledLevels acks l (a ++ b) = sampledLevels acks l a ++ sampledLevels acks (a.foldl slaveSees l) b := by
  induction a generalizing l with
  | nil => rfl
  | cons x rest ih => simp [sampledLevels, ih]

/-- It never drives the clock line. -/
@[simp] theorem slaveDrives_clock (acks : Bool) (l : SlaveLine) : (slaveDrives acks l).2 = false := rfl

/-- One that acknowledges nothing drives nothing. -/
@[simp] theorem slaveDrives_silent (l : SlaveLine) : slaveDrives false l = (false, false) := by
  simp [slaveDrives]

end Sys2Proof.Machine
end

