-- ==== Sys2Proof/Laws/Step.lean ====
section
/-! SUPPORT. Everything a step can do, once. -/

namespace Sys2Proof.Machine

/-- The ways a step can answer a next state. -/
inductive StepCase (o : Oracle) (s : State) : State → Prop
  /-- No operation running and nothing for the host to do. -/
  | rest (hq : s.seq = .idle) (hh : s.host = []) : StepCase o s s
  /-- The host's next act presents a word that decodes, and the operation runs. -/
  | operate (a : HostAct) (acts : List HostAct) (w : CmdWord) (i : Instr) (t : State) (hq : s.seq = .idle)
      (hh : s.host = a :: acts)
      (ha : a = .issue w ∨ ∃ base back, a = .issueRead base back ∧ w = withImm base (earlierRead s back))
      (hd : decode w = .ok i) (he : exec i { s with host := acts } = .next t) : StepCase o s t
  /-- The host reads `RES`. -/
  | readRes (acts : List HostAct) (hq : s.seq = .idle) (hh : s.host = .readRes :: acts)
      (hw : s.resWritten = true) :
      StepCase o s { s with host := acts, resReads := s.resReads ++ [s.res] }
  /-- ADC.SAMPLE is taken up after its wait. -/
  | sampleDone (hq : s.seq = .sampleWait) (hd : s.adcDone = true) : StepCase o s (resumeSample s)
  /-- ACQ.AVG is taken up after the wait of one of its samples. -/
  | avgDone (cnt acc : Nat) (hq : s.seq = .avgWait cnt acc) (hd : s.adcDone = true) :
      StepCase o s (resumeAvg cnt acc s)
  /-- The converter agent acts during a wait. -/
  | converter (hq : s.seq ≠ .idle) (hd : s.adcDone = false) (hr : o.ready s.tick = true) :
      StepCase o s (tickOn (converterStep o s))
  /-- The block holds in its wait. -/
  | hold (hq : s.seq ≠ .idle) (hd : s.adcDone = false) (hr : o.ready s.tick = false) :
      StepCase o s (tickOn s)

theorem runWord_eq_next {w : CmdWord} {s t : State} :
    runWord w s = .next t ↔ ∃ i, decode w = .ok i ∧ exec i s = .next t := by
  unfold runWord
  cases h : decode w <;> simp [refuse]

theorem waitStep_cases {o : Oracle} {resume : State → State} {s t : State} (h : waitStep o resume s = .next t) :
    (s.adcDone = true ∧ t = resume s) ∨
    (s.adcDone = false ∧ o.ready s.tick = true ∧ t = tickOn (converterStep o s)) ∨
    (s.adcDone = false ∧ o.ready s.tick = false ∧ t = tickOn s) := by
  unfold waitStep at h
  split at h
  · cases h; exact .inl ⟨‹_›, rfl⟩
  · split at h <;> cases h
    · exact .inr (.inl ⟨by simpa using ‹¬s.adcDone = true›, ‹_›, rfl⟩)
    · exact .inr (.inr ⟨by simpa using ‹¬s.adcDone = true›, by simpa using ‹¬o.ready s.tick = true›, rfl⟩)

theorem portStep_cases {o : Oracle} {s t : State} (hq : s.seq = .idle) (h : portStep s = .next t) : StepCase o s t := by
  unfold portStep at h
  split at h
  · cases h; exact .rest hq ‹_›
  · rename_i a acts hh
    cases a with
    | issue w =>
      obtain ⟨i, hd, he⟩ := runWord_eq_next.1 h
      exact .operate _ acts w i t hq hh (.inl rfl) hd he
    | readRes =>
      simp only [hostAct, readRes, refuse] at h
      split at h
      · cases h; exact .readRes acts hq hh ‹_›
      · cases h
    | issueRead base back =>
      obtain ⟨i, hd, he⟩ := runWord_eq_next.1 h
      exact .operate _ acts _ i t hq hh (.inr ⟨base, back, rfl, rfl⟩) hd he

/-- A step that answers a next state had a well-formed configuration and did one of these. -/
theorem stepWith_cases {o : Oracle} {s t : State} (h : stepWith o s = .next t) : s.cfg.wf = true ∧ StepCase o s t := by
  unfold stepWith at h
  split at h
  · rename_i hw
    refine ⟨hw, ?_⟩
    unfold seqStep at h
    split at h
    · rename_i hq
      exact portStep_cases hq h
    · rename_i hq
      rcases waitStep_cases h with ⟨hd, rfl⟩ | ⟨hd, hr, rfl⟩ | ⟨hd, hr, rfl⟩
      · exact .sampleDone hq hd
      · exact .converter (by simp [hq]) hd hr
      · exact .hold (by simp [hq]) hd hr
    · rename_i cnt acc hq
      rcases waitStep_cases h with ⟨hd, rfl⟩ | ⟨hd, hr, rfl⟩ | ⟨hd, hr, rfl⟩
      · exact .avgDone cnt acc hq hd
      · exact .converter (by simp [hq]) hd hr
      · exact .hold (by simp [hq]) hd hr
  · cases h

/-- The same of the machine's own step. -/
theorem step_cases {s t : State} (h : step s = .next t) : s.cfg.wf = true ∧ StepCase Oracle.free s t :=
  stepWith_cases h

/-- What the converter's step does (R191): nothing, or an answer to an unanswered `START`. -/
theorem converterStep_cases (o : Oracle) (s : State) :
    converterStep o s = s ∨
      ∃ src, s.adcSel = some src ∧ startOutstanding s = true ∧
        converterStep o s = answerWith (o.draw src s.tick) s := by
  unfold converterStep
  split
  · split
    · exact .inr ⟨_, ‹_›, ‹_›, rfl⟩
    · exact .inl rfl
  · exact .inl rfl

end Sys2Proof.Machine
end

