-- ==== Sys2Proof/Laws/WellFormed.lean ====
section
/-! SUPPORT. What a well-formed configuration gives: the conditions of R9 one by one, and that the range condition
tested at the two ends is the condition for every average. -/

namespace Sys2Proof

namespace Machine

/-- R157's truncation never decreases (R158). -/
theorem truncDiv_mono {a b : Int} {d : Nat} (h : a ≤ b) : truncDiv a d ≤ truncDiv b d := by
  unfold truncDiv
  split <;> split
  · exact_mod_cast Nat.div_le_div_right (by omega)
  · omega
  · have h1 : (0 : Int) ≤ ((-a).toNat / d : Nat) := by positivity
    have h2 : (0 : Int) ≤ (b.toNat / d : Nat) := by positivity
    omega
  · have h1 : (-b).toNat / d ≤ (-a).toNat / d := Nat.div_le_div_right (by omega)
    omega

/-- `NUM` never decreases in the average (R158). -/
theorem linNum_mono (c : Config) {a b : Nat} (h : a ≤ b) : linNum c a ≤ linNum c b := by
  have : a * c.scaleQ.toNat ≤ b * c.scaleQ.toNat := Nat.mul_le_mul_right _ h
  unfold linNum
  omega

end Machine

/-- R9: the range condition at every average is the condition at the two ends. -/
theorem linRangeOk_iff (c : Config) : c.linRangeOk = true ↔ ∀ avg < 1024, c.linFits avg = true := by
  constructor
  · intro h avg ha
    simp only [Config.linRangeOk, Config.linFits, Bool.and_eq_true, decide_eq_true_eq] at h ⊢
    obtain ⟨⟨⟨n0, l0⟩, u0⟩, ⟨n1, l1⟩, u1⟩ := h
    have m0 := Machine.linNum_mono c (Nat.zero_le avg)
    have m1 := Machine.linNum_mono c (show avg ≤ 1023 by omega)
    have c0 : Machine.linCelsius c 0 ≤ Machine.linCelsius c avg := Machine.truncDiv_mono m0
    have c1 : Machine.linCelsius c avg ≤ Machine.linCelsius c 1023 := Machine.truncDiv_mono m1
    refine ⟨⟨?_, ?_⟩, ?_⟩ <;> omega
  · intro h
    simp [Config.linRangeOk, h 0 (by omega), h 1023 (by omega)]

/-- R9: a table that never decreases from one entry to the next. -/
theorem nonDecreasing_iff (l : List Half) :
    nonDecreasing l = true ↔ ∀ i a b, l[i]? = some a → l[i + 1]? = some b → a.toNat ≤ b.toNat := by
  induction l with
  | nil => simp [nonDecreasing]
  | cons x rest ih =>
    cases rest with
    | nil => simp [nonDecreasing]
    | cons y rest =>
      simp only [nonDecreasing, Bool.and_eq_true, decide_eq_true_eq, ih]
      constructor
      · rintro ⟨hxy, h⟩ i a b ha hb
        cases i with
        | zero => simp at ha hb; subst ha; subst hb; exact hxy
        | succ i => exact h i a b (by simpa using ha) (by simpa using hb)
      · intro h
        exact ⟨h 0 x y rfl rfl, fun i a b ha hb => h (i + 1) a b (by simpa using ha) (by simpa using hb)⟩

section
variable {c : Config} (h : c.wf = true)
include h

/-- The conditions a well-formed configuration meets, by name. -/
theorem Config.wf_parts : c.basesOk = true ∧ c.initSeqOk = true ∧ c.glyphOk = true ∧ c.samplesOk = true ∧
    c.tableOk = true ∧ c.biasOk = true ∧ c.fracOk = true ∧ c.linRangeOk = true := by
  simpa [Config.wf, and_assoc] using h

theorem Config.wf_glyph {idx : Nat} (hi : idx < 14) : ∃ g, c.glyph[idx]? = some g ∧ g.length = 6 := by
  have hg := (Config.wf_parts h).2.2.1
  simp only [Config.glyphOk, Bool.and_eq_true, decide_eq_true_eq, List.all_eq_true] at hg
  have hl : idx < c.glyph.length := hg.1 ▸ hi
  exact ⟨c.glyph[idx], by simp [hl], hg.2 _ (List.getElem_mem hl)⟩

theorem Config.wf_samples : 1 ≤ c.nSamples := by
  simpa [Config.samplesOk] using (Config.wf_parts h).2.2.2.1

theorem Config.wf_buckets : 2 ≤ c.nBuckets ∧ c.tcTable.length = c.nBuckets + 1 := by
  have ht := (Config.wf_parts h).2.2.2.2.1
  simp only [Config.tableOk, Bool.and_eq_true, decide_eq_true_eq] at ht
  exact ht.1

theorem Config.wf_table {i : Nat} {a b : Half} (ha : c.tcTable[i]? = some a) (hb : c.tcTable[i + 1]? = some b) :
    a.toNat ≤ b.toNat := by
  have ht := (Config.wf_parts h).2.2.2.2.1
  simp only [Config.tableOk, Bool.and_eq_true] at ht
  exact (nonDecreasing_iff _).1 ht.2 i a b ha hb

theorem Config.wf_bias : c.roundBias ≤ 9 := by
  simpa [Config.biasOk] using (Config.wf_parts h).2.2.2.2.2.1

end

/-- The spec's example configuration is well formed. -/
theorem specExample_wf : Config.specExample.wf = true := by decide

end Sys2Proof
end

