-- ==== Sys2Proof/Tests/Slice0.lean ====
section
/-! SUPPORT. Tests: expected results are worked out in 95_test_vectors.md (V and P numbers) or by hand from the rules
named. Then, for every obligation with hypotheses, a theorem showing data that meets them all. -/

namespace Sys2Proof.Tests

open Sys2Proof Sys2Proof.Machine

/- One theorem after another: a thread for each takes more memory than a build with the default stack has. It ends with
the namespace. -/
set_option Elab.async false

/-! ## Small states and readers of an outcome -/

/-- The state an outcome holds, if any. -/
def nextOf : Result → Option State
  | .next s => some s
  | .fault _ => none
  | .refused _ => none

/-- The reason of a refusal, if it is one. -/
def refusalOf : Result → Option Refusal
  | .next _ => none
  | .fault _ => none
  | .refused r => some r

/-- After BUS.INIT: the bus is idle. -/
def idleS : State := busInitBody State.reset

/-- After BUS.START 0x78: a transaction is open. -/
def openS : State := busStartBody 0x78 idleS

/-- After ADC.CFGI: the internal source is selected. -/
def internalS : State := adcEvent (.cfg .internal) (setAdcSel .internal State.reset)

/-- After ADC.CFGI and ADC.SAMPLE up to its wait. -/
def waitS : State := setSeq .sampleWait (startConversion internalS)

/-- The actions an operation appends to `TRACE`. -/
def emitted (i : Instr) (s : State) : Option (List PinAction) :=
  (nextOf (exec i s)).map fun t => t.trace.drop s.trace.length

/-- The value an operation leaves in `RES`. -/
def result (i : Instr) (s : State) : Option Int := (nextOf (exec i s)).map fun t => t.res.toInt

/-- `dChc` of R12: a bit 0. -/
def b0 : List PinAction := [.sdaLow, .sclRel, .hold, .sclLow]
/-- `dDChc` of R12: a bit 1. -/
def b1 : List PinAction := [.sdaLow, .sdaRel, .sclRel, .hold, .sclLow]
/-- `DCnc` of R12: the acknowledgment slot. -/
def ak : List PinAction := [.sdaRel, .sclRel, .nop, .sclLow]

/-- A transaction read back whole: its bytes, each acknowledgment 1 in the master view. -/
def readBack (i : Instr) (s : State) : Option (List Txn) :=
  (emitted i s).bind fun acts => (busDecode ⟨.rel, .rel⟩ acts).toOption

/-! ## Decoding: each row of R72 by a word written out in V35 and V37 -/

/-- The operation a word decodes to. -/
def decoded (w : CmdWord) : Option Instr := (decode w).toOption

theorem test_decode_busInit : decoded 0x08000000 = some .busInit := by decide
theorem test_decode_busStart : decoded 0x10000078 = some (.busStart 0x78) := by decide
theorem test_decode_busWrite : decoded 0x180000A5 = some (.busWrite 0xA5) := by decide
theorem test_decode_busStop : decoded 0x20000000 = some .busStop := by decide
theorem test_decode_dspInit : decoded 0x40000000 = some .dspInit := by decide
theorem test_decode_dspCursor : decoded 0x49250000 = some (.dspCursor 37 2) := by decide
theorem test_decode_dspClear : decoded 0x50000000 = some .dspClear := by decide
theorem test_decode_dspGlyph : decoded 0x5800000E = some (.dspGlyph 14) := by decide
theorem test_decode_dspInt : decoded 0x618A04D2 = some (.dspInt 1234 10 3) := by decide
theorem test_decode_dspInt_negative : decoded 0x6000FFFB = some (.dspInt (BitVec.ofInt 16 (-5)) 0 0) := by decide
theorem test_decode_adcCfgi : decoded 0x80000000 = some .adcCfgi := by decide
theorem test_decode_adcCfgt : decoded 0x88000000 = some .adcCfgt := by decide
theorem test_decode_adcSample : decoded 0x90000000 = some .adcSample := by decide
theorem test_decode_acqAvg : decoded 0x98000000 = some .acqAvg := by decide
theorem test_decode_linInt : decoded 0xA000012C = some (.linInt 300) := by decide
theorem test_decode_linTc : decoded 0xA8001200 = some (.linTc 4608) := by decide

/-- Every bit of every field set: V37. -/
theorem test_decode_dspInt_ones : decoded 0x67FFFFFF = some (.dspInt (BitVec.ofInt 16 (-1)) 127 15) := by decide

/-- V36, the reserved words. -/
theorem test_reserved_words :
    decoded 0x00000000 = none ∧ decoded 0x08000001 = none ∧ decoded 0x10000178 = none ∧
    decoded 0x18010000 = none ∧ decoded 0x20800000 = none ∧ decoded 0x28000000 = none ∧
    decoded 0x48000001 = none := by decide

/-- V36, V37, the others. -/
theorem test_reserved_words_further :
    decoded 0x58000010 = none ∧ decoded 0x78000000 = none ∧ decoded 0xA0000400 = none ∧
    decoded 0xA8010000 = none ∧ decoded 0xB0000000 = none ∧ decoded 0xFFFFFFFF = none ∧
    decoded 0x6FFFFFFF = none := by decide

/-- The encoder, on words of V35. -/
theorem test_encode : encode (.dspInt 1234 10 3) = 0x618A04D2 ∧ encode (.dspCursor 127 15) = 0x4FFF0000 ∧
    encode (.linTc 700) = 0xA80002BC := by decide

/-- The word of a table row, as the host numbers its bits. -/
theorem test_decodeTableWord : decodeTableWord 32 0x10000078 = some (.busStart 0x78) := by decide

/-! ## Well-formedness: an ill-formed configuration for each condition of R9, refused -/

/-- The example configuration is well formed, and a step from it is not BAD_CONFIG. -/
theorem test_wf_example : Config.specExample.wf = true := by decide

/-- A configuration that fails exactly one check, and whether the step refuses it. -/
def refusesConfig (c : Config) : Bool := decide (refusalOf (step (State.resetWith c)) = some .badConfig)

theorem test_wf_colHiBase : refusesConfig { Config.specExample with colHiBase := 0x11 } = true := by decide
theorem test_wf_pageBase : refusesConfig { Config.specExample with pageBase := 0xB8 } = true := by decide
theorem test_wf_initSeq : refusesConfig { Config.specExample with initSeq := [] } = true := by decide
theorem test_wf_glyph_count :
    refusesConfig { Config.specExample with glyph := exampleFont.drop 1 } = true := by decide
theorem test_wf_glyph_width :
    refusesConfig { Config.specExample with glyph := [0x3E] :: exampleFont.drop 1 } = true := by decide
theorem test_wf_nSamples : refusesConfig { Config.specExample with nSamples := 0 } = true := by decide
theorem test_wf_nBuckets :
    refusesConfig { Config.specExample with nBuckets := 1, tcTable := [0, 1250] } = true := by decide
theorem test_wf_table_length : refusesConfig { Config.specExample with nBuckets := 8 } = true := by decide
theorem test_wf_table_order :
    refusesConfig { Config.specExample with nBuckets := 2, tcTable := [0, 1250, 1249] } = true := by decide
theorem test_wf_roundBias : refusesConfig { Config.specExample with roundBias := 10 } = true := by decide
theorem test_wf_frac : refusesConfig { Config.specExample with frac := 16 } = true := by decide
/-- 1023 · 65535 at `FRAC` = 0 is past an `s16`. -/
theorem test_wf_linRange_high :
    refusesConfig { Config.specExample with scaleQ := 0xFFFF, frac := 0, offsetQ := 0 } = true := by decide
/-- −40000 at `avg` = 0 and `FRAC` = 0 is below an `s16`. -/
theorem test_wf_linRange_low :
    refusesConfig { Config.specExample with frac := 0, offsetQ := 40000 } = true := by decide

/-! Operands in the range of R207, and refused past it (V22, V25, V33). -/

theorem test_range_glyph : (Instr.dspGlyph 13).inRange Config.specExample = true ∧
    (Instr.dspGlyph 14).inRange Config.specExample = false ∧
    refusalOf (exec (.dspGlyph 14) idleS) = some .glyphIndex := by decide
theorem test_range_value : (Instr.dspInt 0x8000 127 0).inRange Config.specExample = false ∧
    refusalOf (exec (.dspInt 0x8000 127 0) idleS) = some .valueRange := by decide
theorem test_range_cursor : (Instr.dspInt 0 97 0).inRange Config.specExample = true ∧
    (Instr.dspInt 0 98 0).inRange Config.specExample = false ∧
    refusalOf (exec (.dspInt 0 98 0) idleS) = some .cursorRange := by decide
theorem test_range_cursor_negative : (Instr.dspInt 0xFFFF 91 0).inRange Config.specExample = true ∧
    refusalOf (exec (.dspInt 0xFFFF 92 0) idleS) = some .cursorRange := by decide
theorem test_range_bucket : (Instr.linTc 4607).inRange Config.specExample = true ∧
    (Instr.linTc 4608).inRange Config.specExample = false ∧
    refusalOf (exec (.linTc 4608) idleS) = some .bucketRange := by decide

/-! ## The Bus Driver (V3, V6, V9, V10, V14 to V18) -/

theorem test_busInit : emitted .busInit State.reset = some [.sclRel, .sdaRel] ∧
    refusalOf (exec .busInit openS) = some .busPhase := by decide
theorem test_busStart : emitted (.busStart 0x78) idleS =
    some ([.sdaLow, .sclLow] ++ b0 ++ b1 ++ b1 ++ b1 ++ b1 ++ b0 ++ b0 ++ b0 ++ ak) := by decide +kernel
theorem test_busStart_refused : refusalOf (exec (.busStart 0x78) openS) = some .busPhase ∧
    refusalOf (exec (.busStart 0x78) State.reset) = some .busPhase := by decide
theorem test_busWrite : emitted (.busWrite 0xA5) openS =
    some (b1 ++ b0 ++ b1 ++ b0 ++ b0 ++ b1 ++ b0 ++ b1 ++ ak) := by decide +kernel
theorem test_busWrite_refused : refusalOf (exec (.busWrite 0x12) idleS) = some .busPhase := by decide
theorem test_busStop : emitted .busStop openS = some [.sdaLow, .sclRel, .sdaRel] ∧
    (nextOf (exec .busStop openS)).map (·.phase) = some .idle ∧
    refusalOf (exec .busStop idleS) = some .busPhase := by decide +kernel

/-! ## The Display Driver (V20 to V25, V39) -/

theorem test_dspInit : readBack .dspInit idleS = some [wire [0x78, 0x00, 0xAE, 0x20, 0xA8, 0x7F, 0xA6, 0xAF]] ∧
    refusalOf (exec .dspInit State.reset) = some .busPhase := by decide +kernel
theorem test_dspCursor : readBack (.dspCursor 37 2) idleS = some [wire [0x78, 0x00, 0x05, 0x12, 0xB2]] := by
  decide +kernel
theorem test_dspCursor_last : readBack (.dspCursor 127 15) idleS = some [wire [0x78, 0x00, 0x0F, 0x17, 0xBF]] := by
  decide +kernel
theorem test_dspClear_refused : refusalOf (exec .dspClear openS) = some .busPhase := by decide
/-- R124: the first two cells of DSP.CLEAR. -/
theorem test_dspClear_columns : (busDecode ⟨.rel, .rel⟩ ((clearColumns 0 [0, 1] idleS).trace)).toOption =
    some [wire [0x78, 0x00, 0x00, 0x10, 0xB0], wire [0x78, 0x40, 0x00], wire [0x78, 0x00, 0x01, 0x10, 0xB0],
      wire [0x78, 0x40, 0x00]] := by decide +kernel
theorem test_dspGlyph : readBack (.dspGlyph 5) idleS =
    some [wire [0x78, 0x40, 0x27, 0x45, 0x45, 0x45, 0x39, 0x00]] := by decide +kernel
theorem test_dspGlyph_refusal_order : refusalOf (exec (.dspGlyph 14) openS) = some .busPhase := by decide
theorem test_dspInt : (readBack (.dspInt 1234 10 3) idleS).map (List.map (·.bytes)) = some
    [ [0x78, 0x00, 0x0A, 0x10, 0xB3], [0x78, 0x40, 0x00, 0x42, 0x7F, 0x40, 0x00, 0x00],
      [0x78, 0x00, 0x00, 0x11, 0xB3], [0x78, 0x40, 0x42, 0x61, 0x51, 0x49, 0x46, 0x00],
      [0x78, 0x00, 0x06, 0x11, 0xB3], [0x78, 0x40, 0x21, 0x41, 0x45, 0x4B, 0x31, 0x00],
      [0x78, 0x00, 0x0C, 0x11, 0xB3], [0x78, 0x40, 0x18, 0x14, 0x12, 0x7F, 0x10, 0x00],
      [0x78, 0x00, 0x02, 0x12, 0xB3], [0x78, 0x40, 0x00, 0x06, 0x09, 0x09, 0x06, 0x00],
      [0x78, 0x00, 0x08, 0x12, 0xB3], [0x78, 0x40, 0x3E, 0x41, 0x41, 0x41, 0x22, 0x00] ] := by decide +kernel
theorem test_dspInt_actions : (emitted (.dspInt (BitVec.ofInt 16 (-5)) 0 0) idleS).map List.length = some 3494 := by
  decide +kernel
/-- V19. -/
theorem test_glyphs : glyphs 105 = [10, 1, 0, 5, 11, 12] ∧ glyphs 12345 = [2, 3, 4, 5, 11, 12] ∧
    glyphs 10005 = [10, 10, 10, 5, 11, 12] ∧ glyphs (BitVec.ofInt 16 (-32767)) = [13, 2, 7, 6, 7, 11, 12] := by
  decide

/-! ## The pipeline (V26 to V34) -/

theorem test_adcCfgi : (nextOf (exec .adcCfgi State.reset)).map (fun t => (t.adcSel, t.adcLog)) =
    some (some .internal, [.cfg .internal]) := by decide
theorem test_adcCfgt : (nextOf (exec .adcCfgt internalS)).map (fun t => (t.adcSel, t.adcLog)) =
    some (some .thermocouple, [.cfg .internal, .cfg .thermocouple]) := by decide
/-- V27: the converter answers 300. -/
theorem test_adcSample : nextOf (exec .adcSample internalS) = some waitS ∧
    (nextOf (feedSamples [300] waitS)).map (fun t => (t.res, t.adcLog, t.adcDone, t.seq)) =
      some (300, [.cfg .internal, .start, .take 300], false, .idle) := by decide
theorem test_adcSample_refused : refusalOf (exec .adcSample State.reset) = some .adcUnconfigured := by decide
/-- V28: 0 fifteen times, then 16. -/
theorem test_acqAvg : (((nextOf (exec .acqAvg internalS)).bind fun t =>
    nextOf (feedSamples (List.replicate 15 0 ++ [16]) t))).map (fun t => (t.res, t.adcLog.length, t.seq)) =
      some (1, 33, .idle) := by decide +kernel
theorem test_acqAvg_refused : refusalOf (exec .acqAvg State.reset) = some .adcUnconfigured := by decide
/-- V29. -/
theorem test_linInt : result (.linInt 300) State.reset = some 25 ∧ result (.linInt 0) State.reset = some (-275) ∧
    result (.linInt 1023) State.reset = some 748 := by decide
/-- V30: truncation toward zero, not floor. -/
theorem test_linInt_truncates :
    result (.linInt 300) (State.resetWith { Config.specExample with scaleQ := 229 }) = some (-6) := by decide
/-- V31, V32. -/
theorem test_linTc : result (.linTc 700) State.reset = some 170 ∧ result (.linTc 255) State.reset = some 62 ∧
    result (.linTc 2047) State.reset = some 493 := by decide
/-- V34. -/
theorem test_linTc_bias :
    result (.linTc 256) (State.resetWith { Config.specExample with roundBias := 0 }) = some 62 := by decide

/-! ## The step and the port (V38, V39) -/

theorem test_step_busInit : step (State.reset.withFetchWord 32 0x08000000) = .next idleS := rfl
theorem test_step_reserved_first :
    refusalOf (step (openS.withFetchWord 32 0x5800001E)) = some .reservedCw := by decide
theorem test_step_readRes : refusalOf (step { State.reset with host := [.readRes] }) = some .resUnwritten := by decide
/-- 30_encoding.md R82: `LIN.INT RES`. -/
theorem test_step_issueRead : (nextOf (step { State.reset with host := [.issueRead 0xA0000000 0], resReads := [300] })).map
    (·.res) = some 25 := by decide
/-- R191, R155: the converter answers during the wait, and the wait then ends. -/
theorem test_converter : nextOf (stepWith ⟨fun _ => true, fun _ _ => 300⟩ waitS) =
    some (tickOn (answerWith 300 waitS)) := by decide

/-! ## The reference display (P2) -/

theorem test_display_glyph : ((displayTxns Config.specExample
      [wire [0x78, 0x00, 0x05, 0x12, 0xB2], wire [0x78, 0x40, 0x27, 0x45, 0x45, 0x45, 0x39, 0x00]]
      ⟨0, 0, [], .none, false⟩).toOption).map (fun d => (d.col, d.page, d.ram)) =
    some (43, 2, [(293, 0x27), (294, 0x45), (295, 0x45), (296, 0x45), (297, 0x39), (298, 0x00)]) := by decide

/-- R60: the slave acknowledges 0x78 (0,1,1,1,1,0,0,0) or leaves the slot to the pull-up; the last level is the stop's. -/
theorem test_slave_acknowledges :
    sampledLevels true ⟨⟨.rel, .rel⟩, false, 0⟩ (wireActions .sdaThenScl [0x78]) =
      [false, true, true, true, true, false, false, false, false, false] ∧
    sampledLevels false ⟨⟨.rel, .rel⟩, false, 0⟩ (wireActions .sdaThenScl [0x78]) =
      [false, true, true, true, true, false, false, false, true, false] := by decide +kernel

/-! ## Witnesses: for every obligation with hypotheses, data that meets them all -/

/-- The state of a host that will present one word, on a given state. -/
def presenting (w : CmdWord) (s : State) : State := { s with host := [.issue w] }

theorem witness_EncodeInvertsDecode : decode 0x618A04D2 = .ok (.dspInt 1234 10 3) := rfl

theorem witness_OpcodeMapSelectsOperation : decode 0x49250000 = .ok (.dspCursor 37 2) ∧
    selectsRow 0x49250000 (.dspCursor 0 0) := by unfold selectsRow; decide

/-- `OP` = 0x05 has no row. -/
theorem no_row : ∀ i, ¬ selectsRow 0x28000000 i := by
  intro i hi
  cases i with
  | busInit => exact absurd hi (by unfold selectsRow; decide)
  | busStart => exact absurd hi (show ¬ 0x28000000 &&& 0xFFFFFF00 = (0x10000000 : CmdWord) by decide)
  | busWrite => exact absurd hi (show ¬ 0x28000000 &&& 0xFFFFFF00 = (0x18000000 : CmdWord) by decide)
  | busStop => exact absurd hi (by unfold selectsRow; decide)
  | dspInit => exact absurd hi (by unfold selectsRow; decide)
  | dspCursor => exact absurd hi (show ¬ 0x28000000 &&& 0xF800FFFF = (0x48000000 : CmdWord) by decide)
  | dspClear => exact absurd hi (by unfold selectsRow; decide)
  | dspGlyph => exact absurd hi (show ¬ 0x28000000 &&& 0xFFFFFFF0 = (0x58000000 : CmdWord) by decide)
  | dspInt => exact absurd hi (show ¬ 0x28000000 &&& 0xF8000000 = (0x60000000 : CmdWord) by decide)
  | adcCfgi => exact absurd hi (by unfold selectsRow; decide)
  | adcCfgt => exact absurd hi (by unfold selectsRow; decide)
  | adcSample => exact absurd hi (by unfold selectsRow; decide)
  | acqAvg => exact absurd hi (by unfold selectsRow; decide)
  | linInt => exact absurd hi (show ¬ 0x28000000 &&& 0xFFFFFC00 = (0xA0000000 : CmdWord) by decide)
  | linTc => exact absurd hi (show ¬ 0x28000000 &&& 0xFFFF0000 = (0xA8000000 : CmdWord) by decide)

theorem witness_ReservedWordIsRefused :
    (presenting 0x28000000 idleS).cfg.wf = true ∧ (presenting 0x28000000 idleS).seq = .idle ∧
    (presenting 0x28000000 idleS).host = [.issue 0x28000000] ∧ (∀ i, ¬ selectsRow 0x28000000 i) ∧
    opField 0x28000000 ∈ [0x00, 0x05, 0x06, 0x07, 0x0D, 0x0E, 0x0F] ∧ 0x16 ≤ (opField 0xB0000000).toNat :=
  ⟨by decide, rfl, rfl, no_row, by decide, by decide⟩

theorem witness_PresentedWordIsExecuted :
    (presenting 0x08000000 State.reset).cfg.wf = true ∧ (presenting 0x08000000 State.reset).seq = .idle ∧
    (presenting 0x08000000 State.reset).host = [.issue 0x08000000] ∧ decode 0x08000000 = .ok .busInit ∧
    300 = (([300] : List Half).reverse[0]?).getD (Config.hostUnread (0 - 1)) ∧
    decode (pack (opField 0xA0000000) (pgField 0xA0000000) (colField 0xA0000000) 300) = .ok (.linInt 300) :=
  ⟨by decide, rfl, rfl, rfl, rfl, rfl⟩

theorem witness_BadConfigIsRefused : (State.resetWith { Config.specExample with nSamples := 0 }).cfg.wf = false := by
  decide

theorem witness_HostReadOfResult :
    State.reset.cfg.wf = true ∧ State.reset.seq = .idle ∧ State.reset.resWritten = false ∧
    (writeRes 25 State.reset).resWritten = true := by decide

theorem witness_WellFormedConfigIsEveryCondition :
    ({ Config.specExample with nSamples := 0 } : Config).wf = false := by decide

theorem witness_ResetMeetsInvariants : Config.specExample.startOrder = .sdaThenScl := rfl

theorem witness_RomReadsInExactlyItsRange : Config.specExample.wf = true ∧ (83 < 84) ∧
    9 ≤ Config.specExample.nBuckets ∧ 5 < Config.specExample.initSeq.length := by decide

/-- A transaction is open and the host will close it. -/
def closing : State := presenting 0x20000000 openS

theorem closing_step : step closing = .next { busStopBody openS with host := [] } := rfl

theorem closing_legal : LegalBus closing :=
  ⟨rfl, rfl, by decide +kernel, .opened 9, by decide +kernel, 1, by decide, rfl⟩

theorem witness_StepKeepsPhaseDrives :
    PhaseDrives closing ∧ step closing = .next { busStopBody openS with host := [] } := ⟨rfl, closing_step⟩

theorem witness_StepKeepsLegalFraming :
    LegalBus closing ∧ step closing = .next { busStopBody openS with host := [] } := ⟨closing_legal, closing_step⟩

theorem witness_StepKeepsTraceDecodable :
    LegalBus closing ∧ TraceDecodes closing ∧ step closing = .next { busStopBody openS with host := [] } :=
  ⟨closing_legal,
    ⟨⟨true, [false, true, true, true, true, false, false, false, true], []⟩, rfl, rfl, fun _ => rfl⟩, closing_step⟩

/-- ADC.SAMPLE's wait with its answer there. -/
def answered : State := answerWith 300 waitS

theorem witness_StepKeepsOneConversion :
    OneConversion answered ∧ step answered = .next (resumeSample answered) :=
  ⟨⟨rfl, fun _ => by decide⟩, rfl⟩

/-- The wait for the last sample of an average, with its answer there. -/
def lastOfAvg : State := setSeq (.avgWait 16 (15 * 1023)) answered

theorem witness_StepKeepsAverageBounded :
    AvgBounded lastOfAvg ∧ step lastOfAvg = .next (resumeAvg 16 (15 * 1023) lastOfAvg) := by
  refine ⟨?_, rfl⟩
  intro cnt acc h
  cases h
  decide

theorem witness_HistoriesGrowConfigStays : step answered = .next (resumeSample answered) := rfl

theorem witness_FirstViolationRefusesElseCompletes : idleS.cfg.wf = true ∧
    firstRefusal (.dspInt 0x8000 127 0) idleS = some .valueRange ∧ firstRefusal (.dspInt 5 0 0) idleS = none := by
  decide

theorem witness_PhaseTable : exec .busInit State.reset = .next idleS := rfl

theorem witness_OnlyFourOperationsTouchResult :
    exec .busInit State.reset = .next idleS ∧ isConversion .busInit = false ∧
    step answered = .next (resumeSample answered) ∧ waitS.seq ≠ .idle ∧ waitS.adcDone = false ∧
    (∃ t, step waitS = .next t) := by
  refine ⟨rfl, rfl, rfl, by decide, rfl, ?_⟩
  have h : step waitS = waitStep Oracle.free resumeSample waitS := rfl
  rw [h]
  unfold waitStep
  split
  · exact ⟨_, rfl⟩
  · split <;> exact ⟨_, rfl⟩

theorem witness_PipelineIsApartFromBus : isPipeline (.linInt 300) = true ∧ waitS.seq ≠ .idle := by decide

theorem witness_BusIsApartFromPipeline : isPipeline (.dspGlyph 5) = false := rfl

theorem witness_BusDriverHasNoInput : isBus .busInit = true ∧ State.reset.cfg.startOrder = idleS.cfg.startOrder ∧
    exec .busInit State.reset = .next idleS ∧ exec .busInit idleS = .next (busInitBody idleS) := ⟨rfl, rfl, rfl, rfl⟩

theorem witness_BusInitReleasesLines : State.reset.phase ≠ .transmitting ∧ idleS.phase ≠ .transmitting ∧
    openS.phase = .transmitting := by decide

theorem witness_BusWriteSendsByte : openS.phase = .transmitting ∧ idleS.phase ≠ .transmitting ∧
    openS.drives.scl = .low := by decide

theorem witness_BusStartOpensTransaction : idleS.phase = .idle ∧ idleS.cfg.startOrder = .sdaThenScl ∧
    (busInitBody (State.resetWith { Config.specExample with startOrder := .sclThenSda })).phase = .idle ∧
    (busInitBody (State.resetWith { Config.specExample with startOrder := .sclThenSda })).cfg.startOrder =
      .sclThenSda ∧ openS.phase ≠ .idle := by decide

theorem witness_BusStopClosesTransaction : openS.phase = .transmitting ∧ idleS.phase ≠ .transmitting ∧
    openS.drives.scl = .low := by decide

theorem witness_SerializationReadsBack : idleS.cfg.startOrder = .sdaThenScl ∧ idleS.phase = .idle := by decide

theorem witness_FramingReadsBack : idleS.cfg.startOrder = .sdaThenScl ∧ idleS.drives = ⟨.rel, .rel⟩ ∧
    idleS.phase = .idle := by decide

theorem witness_TransactionsReadBack : ∀ b ∈ ([[0x78], [0x78, 0x00, 0xAF]] : List (List Byte)), b ≠ [] := by decide

/-- Also of DSP.CURSOR and of DSP.GLYPH at both its boundary values. -/
theorem witness_DisplayInitSendsSequence : idleS.phase = .idle := rfl
theorem witness_DisplayCursorSendsThreeCommands : idleS.phase = .idle := rfl
theorem witness_DisplayGlyphSendsSixBytes : idleS.cfg.wf = true ∧ idleS.phase = .idle ∧
    (13 : BitVec 4).toNat ≤ 13 ∧ 13 < (14 : BitVec 4).toNat := by decide

theorem witness_ClearCoversTheGridOnce : idleS.cfg.wf = true ∧ idleS.cfg.startOrder = .sdaThenScl ∧
    idleS.phase = .idle := by decide

/-- V25: the last columns at which a field is admitted. -/
theorem witness_IntegerRendersItsGlyphs : idleS.cfg.wf = true ∧ idleS.phase = .idle ∧
    (0 : Half).toInt ≠ -32768 ∧ (97 : BitVec 7).toNat + 6 * ((if (0 : Half).toInt < 0 then 7 else 6) - 1) ≤ 127 ∧
    (0xFFFF : Half).toInt ≠ -32768 ∧
    (91 : BitVec 7).toNat + 6 * ((if (0xFFFF : Half).toInt < 0 then 7 else 6) - 1) ≤ 127 := by decide

theorem witness_ActionCounts : idleS.cfg.wf = true ∧ exec .busInit idleS = .next (busInitBody idleS) :=
  ⟨by decide, rfl⟩

theorem witness_SampleTakesTheAnswer : internalS.adcSel ≠ none ∧ internalS.cfg.wf = true ∧
    State.reset.adcSel = none := by decide

theorem witness_AverageIsTheFloorOfTheMean : internalS.cfg.wf = true ∧ internalS.adcSel ≠ none ∧
    (List.replicate 16 (1023 : Sample)).length = internalS.cfg.nSamples ∧ State.reset.adcSel = none := by decide

/-- Of the two clauses, the free value picks one. -/
theorem witness_WaitIsLiftedByConverterOnly : waitS.cfg.wf = true ∧ waitS.seq ≠ .idle ∧ waitS.adcDone = false ∧
    waitS.adcSel = some .internal ∧ waitS.adcLog.getLast? = some .start ∧
    (Config.converterReady waitS.tick = false ∨ Config.converterReady waitS.tick = true) := by
  refine ⟨by decide, by decide, rfl, rfl, rfl, ?_⟩
  cases Config.converterReady waitS.tick <;> simp

/-- A converter that always answers 300 at once. -/
def prompt : Oracle := ⟨fun _ => true, fun _ _ => 300⟩

theorem prompt_fair : Fair prompt := fun n => ⟨n, Nat.le_refl n, rfl⟩

theorem witness_FairConverterEndsEveryWait : waitS.cfg.wf = true ∧ waitS.seq ≠ .idle ∧ waitS.adcSel ≠ none ∧
    waitS.adcLog.getLast? = some .start ∧ Fair prompt ∧
    (∀ n, (Oracle.mk (fun _ => false) (fun _ _ => 0)).ready n = false) ∧ waitS.adcDone = false :=
  ⟨by decide, by decide, by decide, rfl, prompt_fair, fun _ => rfl, rfl⟩

theorem witness_InternalConversionTruncates : State.reset.cfg.wf = true := by decide

theorem witness_InternalConversionIsMonotone : State.reset.cfg.wf = true ∧ (0 : Sample).toNat < (1023 : Sample).toNat ∧
    (∃ t, exec (.linInt 0) State.reset = .next t) ∧ (∃ t, exec (.linInt 1023) State.reset = .next t) :=
  ⟨by decide, by decide, ⟨_, rfl⟩, ⟨_, rfl⟩⟩

theorem witness_ThermocoupleConversionInterpolates : State.reset.cfg.wf = true ∧
    (4607 : Half).toNat / 512 < State.reset.cfg.nBuckets ∧ State.reset.cfg.nBuckets ≤ (4608 : Half).toNat / 512 := by
  decide

theorem witness_BreakpointBoundaryHasNoExtra : State.reset.cfg.wf = true ∧ 8 < State.reset.cfg.nBuckets ∧
    (4096 : Half).toNat = 512 * 8 := by decide

theorem witness_ThermocoupleConversionIsMonotone : State.reset.cfg.wf = true ∧ (511 : Half).toNat ≤ (512 : Half).toNat ∧
    (∃ t, exec (.linTc 511) State.reset = .next t) ∧ (∃ t, exec (.linTc 512) State.reset = .next t) :=
  ⟨by decide, by decide, ⟨_, rfl⟩, ⟨_, rfl⟩⟩

theorem witness_StartUpEndsWell : Config.specExample.wf = true ∧ Config.specExample.startOrder = .sdaThenScl := by
  decide

/-- A host that will run ACQUIRE. -/
def acquiring : State := { State.reset with host := acquire }

theorem witness_AcquireReadsBothTemperatures : Fair prompt ∧ acquiring.cfg.wf = true ∧ acquiring.seq = .idle ∧
    acquiring.host = acquire ++ [] := ⟨prompt_fair, by decide, rfl, by decide⟩

/-- A host that has acquired the temperatures of P4 and will draw them. -/
def rendering : State := { idleS with host := renderAcquired Config.specExample, resReads := [300, 25, 700, 170] }

theorem witness_RenderDrawsBothTemperatures : rendering.cfg.wf = true ∧ rendering.seq = .idle ∧
    rendering.host = renderAcquired rendering.cfg ++ [] ∧ rendering.resReads = [] ++ [300, 25, 700, 170] := by decide

theorem specExample_distinct : CursorCommandsDistinct Config.specExample := by
  refine ⟨by decide, by decide, by decide, fun column page h => ?_⟩
  have hl := congrArg List.length h
  simp [cursorBytes, Config.specExample, InitCommands.seq, InitCommands.specExample] at hl

/-- The last column at which a glyph fits, and the first at which it does not. -/
theorem witness_GlyphStandsAtItsCursor : idleS.cfg.wf = true ∧ idleS.cfg.startOrder = .sdaThenScl ∧
    idleS.phase = .idle ∧ CursorCommandsDistinct idleS.cfg ∧ (13 : BitVec 4).toNat ≤ 13 ∧
    (122 : BitVec 7).toNat ≤ 122 ∧ 122 < (123 : BitVec 7).toNat :=
  ⟨by decide, rfl, rfl, specExample_distinct, by decide, by decide, by decide⟩

theorem witness_ClearBlanksThePicture : idleS.cfg.wf = true ∧ idleS.cfg.startOrder = .sdaThenScl ∧
    idleS.phase = .idle ∧ CursorCommandsDistinct idleS.cfg := ⟨by decide, rfl, rfl, specExample_distinct⟩

/-- The last columns at which a field fits, and the first and last at which it is admitted and does not (R128, V25). -/
theorem witness_IntegerOverwritesItsColumnsOnly : idleS.cfg.wf = true ∧ idleS.cfg.startOrder = .sdaThenScl ∧
    idleS.phase = .idle ∧ CursorCommandsDistinct idleS.cfg ∧
    (1234 : Half).toInt ≠ -32768 ∧ (0xFFFB : Half).toInt ≠ -32768 ∧
    (97 : BitVec 7).toNat + 6 * ((if (1234 : Half).toInt < 0 then 7 else 6) - 1) ≤ 127 ∧
    (91 : BitVec 7).toNat + 6 * ((if (0xFFFB : Half).toInt < 0 then 7 else 6) - 1) ≤ 127 ∧
    (92 : BitVec 7).toNat + 6 * (if (1234 : Half).toInt < 0 then 7 else 6) ≤ 128 ∧
    128 < (93 : BitVec 7).toNat + 6 * (if (1234 : Half).toInt < 0 then 7 else 6) ∧
    (86 : BitVec 7).toNat + 6 * (if (0xFFFB : Half).toInt < 0 then 7 else 6) ≤ 128 ∧
    128 < (87 : BitVec 7).toNat + 6 * (if (0xFFFB : Half).toInt < 0 then 7 else 6) :=
  ⟨by decide, rfl, rfl, specExample_distinct, by decide, by decide, by decide, by decide, by decide, by decide,
    by decide, by decide⟩

theorem witness_ReferenceSlaveAcknowledgesEveryByte : ([0x78, 0x00] : List Byte) ≠ [] := by decide

theorem witness_ClearEmitsItsTransactions : idleS.phase = .idle ∧
    (busInitBody (State.resetWith { Config.specExample with startOrder := .sclThenSda })).phase = .idle := by decide

end Sys2Proof.Tests
end

section
/-! SUPPORT. Family 00_scope.md: the check of a configuration, condition by condition (00_scope.md rule R9), and what
a bus or display operation does not depend on (R1). -/

namespace Sys2Proof

open Machine

/-! The check of a configuration, one condition of R9 at a time. -/

theorem Config.basesOk_iff (c : Config) :
    c.basesOk = true ↔ c.colHiBase &&& 0x0F = 0 ∧ c.pageBase &&& 0x0F = 0 := by
  simp [Config.basesOk]

theorem Config.initSeqOk_iff (c : Config) : c.initSeqOk = true ↔ c.initSeq ≠ [] := by
  simp [Config.initSeqOk]

theorem Config.glyphOk_iff (c : Config) :
    c.glyphOk = true ↔ c.glyph.length = 14 ∧ ∀ g ∈ c.glyph, g.length = 6 := by
  simp only [Config.glyphOk, Bool.and_eq_true, List.all_eq_true, decide_eq_true_eq]
  rfl

theorem Config.samplesOk_iff (c : Config) : c.samplesOk = true ↔ 1 ≤ c.nSamples := by
  simp [Config.samplesOk]

theorem Config.tableOk_iff (c : Config) :
    c.tableOk = true ↔ 2 ≤ c.nBuckets ∧ c.tcTable.length = c.nBuckets + 1 ∧
      ∀ i a b, c.tcTable[i]? = some a → c.tcTable[i + 1]? = some b → a.toNat ≤ b.toNat := by
  simp only [Config.tableOk, Bool.and_eq_true, decide_eq_true_eq, nonDecreasing_iff, and_assoc]

theorem Config.biasOk_iff (c : Config) : c.biasOk = true ↔ c.roundBias ≤ 9 := by
  simp [Config.biasOk]

theorem Config.fracOk_iff (c : Config) : c.fracOk = true ↔ c.frac ≤ 15 := by
  simp [Config.fracOk]

/-- R157's two floors are the division that truncates toward zero. -/
theorem Machine.truncDiv_eq_tdiv (num : Int) (d : Nat) : truncDiv num d = Int.tdiv num d := by
  unfold truncDiv
  split
  · obtain ⟨n, rfl⟩ := Int.eq_ofNat_of_zero_le ‹0 ≤ num›
    rfl
  · obtain ⟨n, hn⟩ := Int.eq_ofNat_of_zero_le (show 0 ≤ -num by omega)
    obtain rfl : num = -(n : Int) := by omega
    simp [Int.neg_tdiv]

/-- R157: `celsius` of LIN.INT, with the power of two as an integer. -/
theorem Machine.linCelsius_eq_tdiv (c : Config) (avg : Nat) :
    linCelsius c avg = Int.tdiv (linNum c avg) (2 ^ c.frac) := by
  simp [linCelsius, truncDiv_eq_tdiv]

theorem Config.linFits_iff (c : Config) (avg : Nat) :
    c.linFits avg = true ↔ (linNum c avg).natAbs < 2 ^ 31 ∧
      -32768 ≤ Int.tdiv (linNum c avg) (2 ^ c.frac) ∧
      Int.tdiv (linNum c avg) (2 ^ c.frac) ≤ 32767 := by
  simp only [Config.linFits, linCelsius_eq_tdiv, Bool.and_eq_true, decide_eq_true_eq, and_assoc]

/-- R9: the check is the conjunction of its eight conditions, the range condition at every average. -/
theorem Config.wf_iff (c : Config) :
    c.wf = true ↔ c.basesOk = true ∧ c.initSeqOk = true ∧ c.glyphOk = true ∧ c.samplesOk = true ∧
      c.tableOk = true ∧ c.biasOk = true ∧ c.fracOk = true ∧ ∀ avg ≤ 1023, c.linFits avg = true := by
  simp only [Config.wf, Bool.and_eq_true, linRangeOk_iff, Nat.lt_succ_iff, and_assoc]

namespace Machine

/-- R9, BAD_CONFIG: whatever the converter does, an ill-formed configuration stops the step. -/
theorem stepWith_of_not_wf (o : Oracle) {s : State} (h : s.cfg.wf = false) : stepWith o s = .refused .badConfig := by
  simp [stepWith, h, refuse]

end Machine

/-- Settles O7: the check stands before everything else a step does. -/
theorem badConfigIsRefused : Obligations.BadConfigIsRefused :=
  fun _ h => stepWith_of_not_wf Oracle.free h

/-- Settles O8: the refusal is O7's, at reset; the equivalence puts the conditions of R9 together, of which only the
range of LIN.INT is tested otherwise than R9 says it (at the two ends, `linRangeOk_iff`). -/
theorem wellFormedConfigIsEveryCondition : Obligations.WellFormedConfigIsEveryCondition := by
  refine ⟨fun c h => badConfigIsRefused (State.resetWith c) h, fun c => ?_⟩
  simp only [Config.wf_iff, Config.basesOk_iff, Config.initSeqOk_iff, Config.glyphOk_iff, Config.samplesOk_iff,
    Config.tableOk_iff, Config.biasOk_iff, Config.fracOk_iff, Config.linFits_iff, linNum, and_assoc]

namespace Machine

/-! What an operation does not depend on: a change of the state that it commutes with. -/

/-- `f` neither changes nor is affected by what `u` replaces: on a state changed by `u` it answers what it answers
otherwise, changed by `u`. -/
def CommutesWith (u : State → State) (f : State → Result) : Prop :=
  ∀ s, f (u s) = mapNext u (f s)

section
variable {u : State → State}

theorem CommutesWith.next {g : State → State} (hg : ∀ s, g (u s) = u (g s)) :
    CommutesWith u fun s => .next (g s) :=
  fun s => congrArg Host.Outcome.next (hg s)

theorem CommutesWith.thenDo {f g : State → Result} (hf : CommutesWith u f) (hg : CommutesWith u g) :
    CommutesWith u fun s => Machine.thenDo (f s) g := by
  intro s
  have h := hf s
  cases hs : f s with
  | next t => simpa [h, hs, mapNext] using hg t
  | fault r => nomatch r
  | refused r => simp [h, hs, mapNext]

theorem CommutesWith.checkThen {checks : State → List (Bool × Refusal)} {body : State → Result}
    (hc : ∀ s, checks (u s) = checks s) (hb : CommutesWith u body) :
    CommutesWith u fun s => Machine.checkThen (checks s) s body := by
  intro s
  show Machine.checkThen (checks (u s)) (u s) body = mapNext u (Machine.checkThen (checks s) s body)
  rw [hc]
  induction checks s with
  | nil => exact hb s
  | cons c rest ih =>
    obtain ⟨ok, r⟩ := c
    cases ok with
    | false => rfl
    | true => exact ih

end

/-- A change of the state that the Bus Driver cannot see and does not undo: it leaves the configuration and `PHASE`
alone, and it may as well be made after a list of pin actions as before. -/
structure ApartFromBus (u : State → State) : Prop where
  cfg : ∀ s, (u s).cfg = s.cfg
  phase : ∀ s, (u s).phase = s.phase
  afterActions : ∀ acts sda scl p s, afterActions acts sda scl p (u s) = u (afterActions acts sda scl p s)

/-- The pipeline's registers, its log and `RES` are apart from the Bus Driver. -/
theorem apartFromBus_withPipeline (sel : Option Source) (done : Bool) (data : Sample) (log : List AdcEvent)
    (res : Half) : ApartFromBus (withPipeline sel done data log res) :=
  ⟨fun _ => rfl, fun _ => rfl, fun _ _ _ _ _ => rfl⟩

namespace ApartFromBus
variable {u : State → State} (hu : ApartFromBus u)
include hu

/-! The bodies of the Bus Driver and the Display Driver, each by its closed form. -/

theorem busInitBody_comm (s : State) : busInitBody (u s) = u (busInitBody s) := by
  simp only [busInitBody_eq, hu.afterActions]

theorem busStopBody_comm (s : State) : busStopBody (u s) = u (busStopBody s) := by
  simp only [busStopBody_eq, hu.afterActions]

theorem busWriteBody_comm (v : Byte) (s : State) : busWriteBody v (u s) = u (busWriteBody v s) := by
  simp only [busWriteBody_eq, hu.phase, hu.afterActions]

theorem busStartBody_comm (a : Byte) (s : State) : busStartBody a (u s) = u (busStartBody a s) := by
  simp only [busStartBody_eq, hu.cfg, hu.afterActions]

theorem txn_comm (ctrl : Byte) (bs : List Byte) (s : State) : txn ctrl bs (u s) = u (txn ctrl bs s) := by
  simp only [txn_eq, hu.cfg, hu.afterActions]

theorem cursorBody_comm (column : Byte) (page : BitVec 4) (s : State) :
    cursorBody column page (u s) = u (cursorBody column page s) := by
  simp only [cursorBody_eq, hu.cfg, hu.afterActions]

theorem clearPages_comm (s : State) :
    clearPages (List.range nPages) (u s) = u (clearPages (List.range nPages) s) := by
  simp only [clear_eq, hu.cfg, hu.afterActions]

theorem glyphBody_commutes (idx : Nat) : CommutesWith u (glyphBody idx) := by
  intro s
  simp only [glyphBody, hu.cfg, hu.txn_comm]
  cases glyphBytes s.cfg idx <;> rfl

theorem putGlyph_commutes (g : Nat) (page : BitVec 4) (cc : Byte) : CommutesWith u (putGlyph g page cc) :=
  .thenDo (.next (hu.cursorBody_comm cc page)) (hu.glyphBody_commutes g)

theorem putPlaces_commutes (page : BitVec 4) (v : Nat) (ps : List Nat) (lead : Bool) (cc : Byte) :
    CommutesWith u (putPlaces page v ps lead cc) := by
  induction ps generalizing lead cc with
  | nil => exact .thenDo (hu.putGlyph_commutes _ page cc) (hu.putGlyph_commutes _ page _)
  | cons p rest ih => exact .thenDo (hu.putGlyph_commutes _ page cc) (ih _ _)

theorem intBody_commutes (value : Half) (column : BitVec 7) (page : BitVec 4) :
    CommutesWith u (intBody value column page) := by
  unfold intBody
  by_cases hneg : signedValue value < 0
  · simp only [hneg, if_true]
    exact .thenDo (hu.putGlyph_commutes _ page _) (hu.putPlaces_commutes page _ _ _ _)
  · simp only [hneg, if_false]
    exact hu.putPlaces_commutes page _ _ _ _

theorem idlePhase_eq (s : State) : idlePhase (u s) = idlePhase s := by
  simp only [idlePhase, hu.phase]

/-- R1: a bus or display operation commutes with every change that is apart from the Bus Driver. -/
theorem exec_commutes {i : Instr} (hi : isPipeline i = false) : CommutesWith u (exec i) := by
  cases i with
  | busInit => exact .checkThen (fun s => by rw [hu.phase]) (.next hu.busInitBody_comm)
  | busStart a => exact .checkThen (fun s => by rw [hu.phase]) (.next (hu.busStartBody_comm a))
  | busWrite v => exact .checkThen (fun s => by rw [hu.phase]) (.next (hu.busWriteBody_comm v))
  | busStop => exact .checkThen (fun s => by rw [hu.phase]) (.next hu.busStopBody_comm)
  | dspInit =>
    exact .checkThen (fun s => by rw [hu.idlePhase_eq]) (.next fun s => by rw [hu.cfg, hu.txn_comm])
  | dspCursor column page =>
    exact .checkThen (fun s => by rw [hu.idlePhase_eq]) (.next (hu.cursorBody_comm _ page))
  | dspClear => exact .checkThen (fun s => by rw [hu.idlePhase_eq]) (.next hu.clearPages_comm)
  | dspGlyph idx => exact .checkThen (fun s => by rw [hu.idlePhase_eq]) (hu.glyphBody_commutes _)
  | dspInt value column page =>
    exact .checkThen (fun s => by rw [hu.idlePhase_eq]) (hu.intBody_commutes value column page)
  | adcCfgi | adcCfgt | adcSample | acqAvg | linInt | linTc => cases hi

end ApartFromBus

end Machine

/-- Settles O24: replacing the pipeline's registers is a change apart from the Bus Driver, and all a bus or display
operation does is emit pin actions chosen by the configuration and its operands. -/
theorem busIsApartFromPipeline : Obligations.BusIsApartFromPipeline :=
  fun _ sel done data log res s hi => (apartFromBus_withPipeline sel done data log res).exec_commutes hi s

end Sys2Proof
end

section
/-! SUPPORT. Family 10_state.md: the values at reset (10_state.md rule R35), the lines (R24), what a step leaves alone
(R31 to R33), and the invariants it keeps (R36; 42_pipeline.md rule R156). -/

namespace Sys2Proof

open Machine

namespace Machine

/-! Reset, as the derived observers see it. -/

@[simp] theorem resetWith_drives (c : Config) : (State.resetWith c).drives = ⟨.rel, .rel⟩ := rfl

@[simp] theorem resetWith_trace (c : Config) : (State.resetWith c).trace = [] := rfl

@[simp] theorem busy_resetWith (c : Config) : busy (State.resetWith c) = false := rfl

theorem phaseDrives_resetWith (c : Config) : PhaseDrives (State.resetWith c) := trivial

/-- The empty trace is framed, outside a transaction, and ends with the lines released. -/
theorem legalBus_resetWith {c : Config} (h : c.startOrder = .sdaThenScl) : LegalBus (State.resetWith c) :=
  ⟨h, phaseDrives_resetWith c, rfl, .closed, rfl, rfl, resetWith_drives c⟩

/-- The empty trace decodes to no transaction, and none is open. -/
theorem traceDecodes_resetWith (c : Config) : TraceDecodes (State.resetWith c) :=
  ⟨⟨false, [], []⟩, rfl, rfl, nofun⟩

theorem oneConversion_resetWith (c : Config) : OneConversion (State.resetWith c) := ⟨rfl, nofun⟩

theorem avgBounded_resetWith (c : Config) : AvgBounded (State.resetWith c) := nofun

/-- R24, for one line. -/
theorem lineLevel_eq_false_iff (own : Drive) (slaveLow : Bool) :
    lineLevel own slaveLow = false ↔ own = .low ∨ slaveLow = true := by
  cases own <;> simp [lineLevel]

end Machine

/-- Settles O10, by the reset value of each field. -/
theorem resetValues : Obligations.ResetValues := fun c =>
  ⟨resetWith_drives c, resetWith_phase c, resetWith_adcSel c, resetWith_adcDone c, resetWith_seq c,
    busy_resetWith c, resetWith_trace c, resetWith_adcLog c, resetWith_cfg c⟩

/-- Settles O11, one invariant at a time: the trace and the log are empty, and no operation is running. -/
theorem resetMeetsInvariants : Obligations.ResetMeetsInvariants := fun c h =>
  ⟨phaseDrives_resetWith c, legalBus_resetWith h, traceDecodes_resetWith c, oneConversion_resetWith c,
    avgBounded_resetWith c⟩

/-- Settles O12: both lines are the one function of R24. -/
theorem lineIsLowExactlyWhenDriven : Obligations.LineIsLowExactlyWhenDriven := fun _ =>
  ⟨lineLevel_eq_false_iff _ _, lineLevel_eq_false_iff _ _⟩

namespace Machine

/-! What a step leaves alone, once. -/

/-- ACQ.AVG taken up after a wait (R156): it starts the next sample, or writes the average. -/
theorem resumeAvg_cases (cnt acc : Nat) (s : State) :
    (cnt < s.cfg.nSamples ∧ resumeAvg cnt acc s =
      setSeq (.avgWait (cnt + 1) (acc + s.adcData.toNat)) (startConversion (takeSample s))) ∨
    (s.cfg.nSamples ≤ cnt ∧ resumeAvg cnt acc s =
      setSeq .idle (writeRes (BitVec.ofNat 16 (average s.cfg (acc + s.adcData.toNat))) (takeSample s))) := by
  by_cases h : cnt < s.cfg.nSamples
  · exact .inl ⟨h, if_pos h⟩
  · exact .inr ⟨Nat.le_of_not_lt h, if_neg h⟩

/-- The fields a step can change: those of the operation it runs, those of the host's side of the port, or, during and
at the end of a wait, those of the pipeline, whose log grows. -/
inductive StepFrame (s : State) : State → Prop
  | operate (i : Instr) (acts : List HostAct) (t : State) (he : exec i { s with host := acts } = .next t) :
      StepFrame s t
  | port (acts : List HostAct) (reads : List Half) (hr : s.resReads <+: reads) :
      StepFrame s { s with host := acts, resReads := reads }
  | wait (q : Seq) (done : Bool) (data : Sample) (log : List AdcEvent) (res : Half) (written : Bool) (tick : Nat)
      (hl : s.adcLog <+: log) :
      StepFrame s { s with seq := q, adcDone := done, adcData := data, adcLog := log, res := res,
                           resWritten := written, tick := tick }

theorem stepFrame_resumeAvg (cnt acc : Nat) (s : State) : StepFrame s (resumeAvg cnt acc s) := by
  obtain ⟨-, h⟩ | ⟨-, h⟩ := resumeAvg_cases cnt acc s <;> rw [h]
  · exact .wait _ _ _ ((s.adcLog ++ [.take s.adcData]) ++ [.start]) _ _ _ ⟨_, (List.append_assoc _ _ _).symm⟩
  · exact .wait _ _ _ (s.adcLog ++ [.take s.adcData]) _ _ _ (List.prefix_append _ _)

theorem stepFrame_converterStep (o : Oracle) (s : State) : StepFrame s (tickOn (converterStep o s)) := by
  obtain h | ⟨_, -, -, h⟩ := converterStep_cases o s <;> rw [h]
  · exact .wait _ _ _ s.adcLog _ _ _ List.prefix_rfl
  · exact .wait _ _ _ s.adcLog _ _ _ List.prefix_rfl

theorem step_frame {s t : State} (h : step s = .next t) : StepFrame s t := by
  cases (step_cases h).2 with
  | rest => exact .port s.host s.resReads List.prefix_rfl
  | operate _ acts _ i _ _ _ _ _ he => exact .operate i acts t he
  | readRes acts => exact .port acts _ (List.prefix_append _ _)
  | sampleDone => exact .wait _ _ _ (s.adcLog ++ [.take s.adcData]) _ _ _ (List.prefix_append _ _)
  | avgDone cnt acc => exact stepFrame_resumeAvg cnt acc s
  | converter => exact stepFrame_converterStep _ s
  | hold => exact .wait _ _ _ s.adcLog _ _ _ List.prefix_rfl

/-! The drive states between operations (R36). -/

/-- An operation ends with the lines its `PHASE` goes with, or touches neither. -/
theorem exec_keeps_phaseDrives {i : Instr} {s t : State} (hs : PhaseDrives s) (h : exec i s = .next t) :
    PhaseDrives t := by
  cases exec_cases h with
  | busInit | busStop | display => exact afterActions_drives _ _ .rel .rel .idle
  | busStart | busWrite => exact afterActions_drives _ _ .rel .low .transmitting
  | adcCfgi | adcCfgt | adcSample | acqAvg | linInt | linTc => exact hs

/-! The accumulator of ACQ.AVG (R30, R156). -/

/-- Only ACQ.AVG begins an average: at its first sample, with nothing accumulated. -/
theorem exec_keeps_avgBounded {i : Instr} {s t : State} (hn : 1 ≤ s.cfg.nSamples) (hs : AvgBounded s)
    (h : exec i s = .next t) : AvgBounded t := by
  cases exec_cases h with
  | acqAvg =>
    intro cnt acc hq
    cases hq
    exact ⟨le_rfl, hn, Nat.zero_le _⟩
  | adcSample => exact nofun
  | busInit | busStart | busWrite | busStop | display | adcCfgi | adcCfgt | linInt | linTc => exact hs

/-- A sample adds at most 1023 to the accumulator, and another is started only while samples are left to take. -/
theorem resumeAvg_keeps_avgBounded {cnt acc : Nat} {s : State} (hs : AvgBounded s) (hq : s.seq = .avgWait cnt acc) :
    AvgBounded (resumeAvg cnt acc s) := by
  obtain ⟨hcnt, -, hacc⟩ := hs cnt acc hq
  have hraw : s.adcData.toNat < 1024 := s.adcData.isLt
  obtain ⟨hlt, h⟩ | ⟨-, h⟩ := resumeAvg_cases cnt acc s <;> rw [h]
  · intro cnt' acc' hq'
    cases hq'
    exact ⟨by omega, hlt, by omega⟩
  · exact nofun

theorem converterStep_keeps_avgBounded (o : Oracle) {s : State} (hs : AvgBounded s) :
    AvgBounded (tickOn (converterStep o s)) := by
  obtain h | ⟨_, -, -, h⟩ := converterStep_cases o s <;> rw [h] <;> exact hs

/-! Histories (R31, R32, R215) and the configuration (R33). -/

/-- An operation appends pin actions or converter events, and reads `RES` for no host. -/
theorem exec_histories {i : Instr} {s t : State} (h : exec i s = .next t) :
    t.cfg = s.cfg ∧ s.trace <+: t.trace ∧ s.adcLog <+: t.adcLog ∧ t.resReads = s.resReads := by
  cases exec_cases h with
  | busInit | busStart | busWrite | busStop | display =>
    exact ⟨rfl, by rw [trace_afterActions]; exact List.prefix_append _ _, List.prefix_rfl, rfl⟩
  | adcCfgi | adcCfgt | adcSample | acqAvg => exact ⟨rfl, List.prefix_rfl, List.prefix_append _ _, rfl⟩
  | linInt | linTc => exact ⟨rfl, List.prefix_rfl, List.prefix_rfl, rfl⟩

end Machine

/-- Settles O14: an operation ends with the drive states of its `PHASE`, and nothing else a step does touches a line or
`PHASE`. -/
theorem stepKeepsPhaseDrives : Obligations.StepKeepsPhaseDrives := by
  intro s t hs h
  cases step_frame h with
  | operate i acts _ he => exact exec_keeps_phaseDrives (s := { s with host := acts }) hs he
  | port | wait => exact hs

/-- Settles O18: each way a step can change `SEQ`. That a first sample is one of those to take is R9's
`N_SAMPLES ≥ 1`, which the step has checked. -/
theorem stepKeepsAverageBounded : Obligations.StepKeepsAverageBounded := by
  intro s t hs h
  obtain ⟨hwf, hstep⟩ := step_cases h
  cases hstep with
  | operate _ acts _ i _ _ _ _ _ he =>
    exact exec_keeps_avgBounded (s := { s with host := acts }) (Config.wf_samples hwf) hs he
  | sampleDone => exact nofun
  | avgDone cnt acc hq => exact resumeAvg_keeps_avgBounded hs hq
  | converter => exact converterStep_keeps_avgBounded _ hs
  | rest | readRes | hold => exact hs

/-- Settles O19: `TRACE` grows by operations only, `ADCLOG` by operations and waits, the host's reads at the port. -/
theorem historiesGrowConfigStays : Obligations.HistoriesGrowConfigStays := by
  intro s t h
  cases step_frame h with
  | operate i acts _ he =>
    obtain ⟨hcfg, htrace, hlog, hreads⟩ := exec_histories he
    exact ⟨hcfg, htrace, hlog, hreads ▸ List.prefix_rfl⟩
  | port acts reads hr => exact ⟨rfl, List.prefix_rfl, List.prefix_rfl, hr⟩
  | wait _ _ _ _ _ _ _ hl => exact ⟨rfl, List.prefix_rfl, hl, List.prefix_rfl⟩

namespace Machine

/-! The result register (R21). -/

/-- A state with `RES` replaced. -/
def withRes (v : Half) (s : State) : State := { s with res := v }

theorem apartFromBus_withRes (v : Half) : ApartFromBus (withRes v) :=
  ⟨fun _ => rfl, fun _ => rfl, fun _ _ _ _ _ => rfl⟩

/-- An operation that is no conversion neither changes nor is affected by `RES`. -/
theorem exec_commutes_withRes (v : Half) {i : Instr} (hi : isConversion i = false) :
    CommutesWith (withRes v) (exec i) := by
  cases i with
  | adcCfgi | adcCfgt => exact .next fun _ => rfl
  | adcSample | acqAvg => exact .checkThen (fun _ => rfl) (.next fun _ => rfl)
  | linInt | linTc => cases hi
  | busInit | busStart | busWrite | busStop | dspInit | dspCursor | dspClear | dspGlyph | dspInt =>
    exact (apartFromBus_withRes v).exec_commutes rfl

/-- A conversion overwrites `RES` and does not read it. -/
theorem exec_withRes_of_isConversion (v : Half) {i : Instr} (hi : isConversion i = true) (s : State) :
    exec i (withRes v s) = exec i s := by
  cases i with
  | linInt | linTc => rfl
  | _ => cases hi

theorem mapNext_id (r : Result) : mapNext (fun t => t) r = r := by cases r <;> rfl

theorem exec_res_of_not_isConversion {i : Instr} {s t : State} (h : exec i s = .next t)
    (hi : isConversion i = false) : t.res = s.res ∧ t.resWritten = s.resWritten := by
  cases exec_cases h with
  | linInt | linTc => cases hi
  | _ => exact ⟨rfl, rfl⟩

@[simp] theorem converterStep_res (o : Oracle) (s : State) : (converterStep o s).res = s.res := by
  obtain h | ⟨_, -, -, h⟩ := converterStep_cases o s <;> simp [h]

/-- While an operation waits unanswered, nothing writes `RES`. -/
theorem step_res_of_waiting {s t : State} (h : step s = .next t) (hq : s.seq ≠ .idle) (hd : s.adcDone = false) :
    t.res = s.res := by
  cases (step_cases h).2 with
  | rest hq' | operate _ _ _ _ _ hq' | readRes _ hq' => exact absurd hq' hq
  | sampleDone _ hd' | avgDone _ _ _ hd' => simp [hd] at hd'
  | converter => exact converterStep_res _ s
  | hold => rfl

end Machine

/-- Settles O22: operations by whether they convert, waits by whether they are answered; what is taken up after a wait
overwrites `RES` before anything could read it. -/
theorem onlyFourOperationsTouchResult : Obligations.OnlyFourOperationsTouchResult := by
  refine ⟨fun i v s => ?_, fun _ _ _ => exec_res_of_not_isConversion, fun _ _ => step_res_of_waiting,
    fun _ _ => ⟨rfl, fun _ _ => rfl⟩⟩
  cases hi : isConversion i with
  | false => exact exec_commutes_withRes v hi s
  | true => exact (exec_withRes_of_isConversion v hi s).trans (mapNext_id _).symm

end Sys2Proof
end

section
/-! SUPPORT. Family 20_memory.md: the read-only memories (R51), the transactions of the wire as a receiver sees them
(R61, R110), and the reference display (R60): its side of the lines and its picture. -/

namespace Sys2Proof

open Machine

namespace Machine

/-! The read-only memories (R51): what each answers inside its range, and that it answers nothing else. -/

theorem memRead_glyphRom_of_wf {c : Config} (hc : c.wf = true) {addr : Nat} (h : addr < 84) :
    ∃ g b, c.glyph[addr / 6]? = some g ∧ g[addr % 6]? = some b ∧
      memRead c .glyphRom addr 1 = some (b.setWidth 16) := by
  obtain ⟨g, hg, hlen⟩ := Config.wf_glyph hc (idx := addr / 6) (by omega)
  have hb : g[addr % 6]? = some (g[addr % 6]'(by omega)) := List.getElem?_eq_getElem _
  have hread := memRead_glyphRom (Nat.mod_lt addr (by decide)) (by omega) hg hb
  rw [Nat.div_add_mod] at hread
  exact ⟨g, _, hg, hb, hread⟩

theorem memRead_tcRom_of_wf {c : Config} (hc : c.wf = true) {addr : Nat} (h : addr ≤ c.nBuckets) :
    ∃ t, c.tcTable[addr]? = some t ∧ memRead c .tcRom addr 2 = some t := by
  have hlen := (Config.wf_buckets hc).2
  have ht : c.tcTable[addr]? = some (c.tcTable[addr]'(by omega)) := List.getElem?_eq_getElem _
  exact ⟨_, ht, (if_pos h).trans ht⟩

theorem memRead_initRom {c : Config} {addr : Nat} (h : addr < c.initSeq.length) :
    ∃ b, c.initSeq[addr]? = some b ∧ memRead c .initRom addr 1 = some (b.setWidth 16) :=
  ⟨_, List.getElem?_eq_getElem h, by simp [memRead, h]⟩

theorem memRead_glyphRom_outside (c : Config) {addr n : Nat} (h : n ≠ 1 ∨ 84 ≤ addr) :
    memRead c .glyphRom addr n = none := by
  match n with
  | 0 | _ + 2 => rfl
  | 1 => exact if_neg (by omega)

theorem memRead_tcRom_outside (c : Config) {addr n : Nat} (h : n ≠ 2 ∨ c.nBuckets < addr) :
    memRead c .tcRom addr n = none := by
  match n with
  | 0 | 1 | _ + 3 => rfl
  | 2 => exact if_neg (by omega)

theorem memRead_initRom_outside (c : Config) {addr n : Nat} (h : n ≠ 1 ∨ c.initSeq.length ≤ addr) :
    memRead c .initRom addr n = none := by
  match n with
  | 0 | _ + 2 => rfl
  | 1 =>
    have hlen : c.initSeq.length ≤ addr := by omega
    simp [memRead, hlen]

end Machine

/-- Settles O13: inside its range each memory has the entry because the configuration's tables have their lengths (R9);
another access size, or an address past the end, is outside. -/
theorem romReadsInExactlyItsRange : Obligations.RomReadsInExactlyItsRange := fun c hc =>
  ⟨fun _ => memRead_glyphRom_of_wf hc, fun _ => memRead_tcRom_of_wf hc, fun _ => memRead_initRom,
    fun _ _ => memRead_glyphRom_outside c, fun _ _ => memRead_tcRom_outside c,
    fun _ _ => memRead_initRom_outside c⟩

namespace Machine

/-! A byte on the wire (R61, R74): its bits, most significant first, then the level of its acknowledgment. -/

/-- The levels a receiver samples for one byte. -/
def wireBits (ack : Bool) (v : Byte) : List Bool := bitOrder.map (byteBit v) ++ [ack]

theorem wireBits_eq (ack : Bool) (v : Byte) :
    wireBits ack v = [v[7], v[6], v[5], v[4], v[3], v[2], v[1], v[0], ack] := rfl

@[simp] theorem length_wireBits (ack : Bool) (v : Byte) : (wireBits ack v).length = 9 := rfl

/-- R110: a byte is put together again from its bits. -/
theorem byteOfBits_bitOrder (v : Byte) : BitVec.ofNat 8 (byteOfBits (bitOrder.map (byteBit v))) = v := by
  revert v; decide

/-- What BUS.WRITE still emits with the bits `ks` of its byte to send: those bits, then the acknowledgment slot, in
which the block releases the data line (R104). -/
def remainingActions (v : Byte) (ks : List Nat) : List PinAction :=
  ks.flatMap (fun k => bitActions (byteBit v k)) ++ [.sdaRel, .sclRel, .nop, .sclLow]

theorem byteActions_eq (v : Byte) : byteActions v = remainingActions v bitOrder := rfl

theorem remainingActions_cons (v : Byte) (k : Nat) (ks : List Nat) :
    remainingActions v (k :: ks) = bitActions (byteBit v k) ++ remainingActions v ks := by
  simp [remainingActions]

/-! A transaction as a receiver sees it (R101, R110). -/

/-- After a byte the data line is released and the clock line is low. -/
@[simp] theorem replay_byteActions (d : Drives) (v : Byte) : replay d (byteActions v) = ⟨.rel, .low⟩ := by
  simp [byteActions, replay, applyAction]

section
variable {d : Drives} (h : d.scl = .low)
include h

/-- The clock falls again after each bit, and a receiver has seen that bit. -/
theorem busEvents_bitActions (b : Bool) :
    busEvents d (bitActions b) = [.clk b] ∧ (replay d (bitActions b)).scl = .low := by
  obtain ⟨sda, scl⟩ := d
  obtain rfl : scl = .low := h
  cases b <;> cases sda <;> exact ⟨rfl, rfl⟩

theorem busEvents_remainingActions (v : Byte) (ks : List Nat) :
    busEvents d (remainingActions v ks) = (ks.map (byteBit v) ++ [true]).map .clk := by
  induction ks generalizing d with
  | nil =>
    obtain ⟨sda, scl⟩ := d
    obtain rfl : scl = .low := h
    cases sda <;> rfl
  | cons k rest ih =>
    obtain ⟨hev, hscl⟩ := busEvents_bitActions h (byteBit v k)
    rw [remainingActions_cons, busEvents_append, hev, ih hscl]
    rfl

theorem busEvents_byteActions (v : Byte) : busEvents d (byteActions v) = (wireBits true v).map .clk :=
  busEvents_remainingActions h v bitOrder

/-- The bytes of a transaction that are left, then its stop, whose clock rise is one more `CLK` (R110). -/
theorem busEvents_bytes_stop (bs : List Byte) :
    busEvents d (bs.flatMap byteActions ++ stopActions) =
      (bs.flatMap (wireBits true) ++ [false]).map .clk ++ [.stopCond] := by
  induction bs generalizing d with
  | nil =>
    obtain ⟨sda, scl⟩ := d
    obtain rfl : scl = .low := h
    cases sda <;> rfl
  | cons v rest ih =>
    rw [List.flatMap_cons, List.append_assoc, busEvents_append, busEvents_byteActions h, replay_byteActions, ih rfl]
    simp

end

theorem busEvents_wireActions (bytes : List Byte) :
    busEvents ⟨.rel, .rel⟩ (wireActions .sdaThenScl bytes) =
      .startCond :: ((bytes.flatMap (wireBits true) ++ [false]).map .clk ++ [.stopCond]) := by
  rw [← busEvents_bytes_stop (d := ⟨.low, .low⟩) rfl, wireActions, List.append_assoc]
  rfl

/-- A transaction ends with both lines released. -/
@[simp] theorem replay_wireActions (d : Drives) (o : StartOrder) (bytes : List Byte) :
    replay d (wireActions o bytes) = ⟨.rel, .rel⟩ := by
  simp [wireActions, stopActions, replay, applyAction]

/-! The decoder on a transaction (R110). -/

theorem decodeEvents_clks (levels bits : List Bool) (out : List Txn) (rest : List BusEvent) :
    decodeEvents ⟨true, bits, out⟩ (levels.map .clk ++ rest) = decodeEvents ⟨true, bits ++ levels, out⟩ rest := by
  induction levels generalizing bits with
  | nil => simp
  | cons b levels ih => simpa [decodeEvents, decodeEvent] using ih (bits ++ [b])

/-- Nine bits are cut off as one byte with its acknowledgment. -/
theorem cutGroups_wireBits (ack : Bool) (v : Byte) (rest : List Bool) :
    cutGroups (wireBits ack v ++ rest) = (v, ack) :: cutGroups rest :=
  congrArg (fun b => (b, ack) :: cutGroups rest) (byteOfBits_bitOrder v)

theorem cutGroups_flatMap_wireBits (ack : Bool) (bs : List Byte) :
    cutGroups (bs.flatMap (wireBits ack)) = bs.map fun v => (v, ack) := by
  induction bs with
  | nil => rfl
  | cons v rest ih => rw [List.flatMap_cons, cutGroups_wireBits, ih, List.map_cons]

theorem closeTxn_wireBits (bs : List Byte) : closeTxn (bs.flatMap (wireBits true) ++ [false]) = .ok (wire bs) := by
  simp [closeTxn, cutGroups_flatMap_wireBits, wire, Function.comp_def]

/-- Outside a transaction, the decoder reads one more transaction whole. -/
theorem decodeEvents_wireActions (bytes : List Byte) (bits : List Bool) (out : List Txn) (rest : List BusEvent) :
    decodeEvents ⟨false, bits, out⟩ (busEvents ⟨.rel, .rel⟩ (wireActions .sdaThenScl bytes) ++ rest) =
      decodeEvents ⟨false, bytes.flatMap (wireBits true) ++ [false], out ++ [wire bytes]⟩ rest := by
  rw [busEvents_wireActions, List.cons_append, List.append_assoc]
  show decodeEvents ⟨true, [], out⟩ _ = _
  rw [decodeEvents_clks]
  simp [decodeEvents, decodeEvent, closeTxn_wireBits]

theorem decodeEvents_transactions (ts : List (List Byte)) (bits : List Bool) (out : List Txn) :
    ∃ bits', decodeEvents ⟨false, bits, out⟩ (busEvents ⟨.rel, .rel⟩ (ts.flatMap (wireActions .sdaThenScl))) =
      .ok ⟨false, bits', out ++ ts.map wire⟩ := by
  induction ts generalizing bits out with
  | nil => exact ⟨bits, by simp [busEvents, decodeEvents]⟩
  | cons bytes rest ih =>
    rw [List.flatMap_cons, busEvents_append, replay_wireActions, decodeEvents_wireActions]
    simpa using ih _ (out ++ [wire bytes])

/-- R110: a list of transactions is read back as it was sent. -/
theorem busDecode_transactions (ts : List (List Byte)) :
    busDecode ⟨.rel, .rel⟩ (ts.flatMap (wireActions .sdaThenScl)) = .ok (ts.map wire) := by
  obtain ⟨bits, h⟩ := decodeEvents_transactions ts [] []
  simp [busDecode, decodeTrace, decoderStart, h, Except.map]

/-! The line side of the reference slave (R60). In a transaction, between pulses, the clock is low. -/

/-- One bit: a pulse that is no ninth has the block's own level. -/
theorem slave_bitActions (acks b : Bool) (sda : Drive) {n : Nat} (hn : (n + 1) % 9 ≠ 0) :
    sampledLevels acks ⟨⟨sda, .low⟩, true, n⟩ (bitActions b) = [b] ∧
      (bitActions b).foldl slaveSees ⟨⟨sda, .low⟩, true, n⟩ = ⟨⟨if b then .rel else .low, .low⟩, true, n + 1⟩ := by
  cases sda <;> cases b <;>
    simp [bitActions, sampledLevels, slaveSees, eventOf, slaveEvent, applyAction, slaveLevels, slaveDrives, lineLevel,
      ninthClock, hn]

/-- What is left of a byte: its ninth pulse is the one in the acknowledgment slot. -/
theorem slave_remainingActions (acks : Bool) (v : Byte) (ks : List Nat) (sda : Drive) {n : Nat} (hk : ks.length ≤ 8)
    (hn : (n + ks.length + 1) % 9 = 0) :
    sampledLevels acks ⟨⟨sda, .low⟩, true, n⟩ (remainingActions v ks) = ks.map (byteBit v) ++ [!acks] ∧
      (remainingActions v ks).foldl slaveSees ⟨⟨sda, .low⟩, true, n⟩ =
        ⟨⟨.rel, .low⟩, true, n + ks.length + 1⟩ := by
  induction ks generalizing sda n with
  | nil =>
    rw [List.length_nil, Nat.add_zero] at hn
    cases sda <;>
      simp [remainingActions, sampledLevels, slaveSees, eventOf, slaveEvent, applyAction, slaveLevels, slaveDrives,
        lineLevel, ninthClock, hn]
  | cons k rest ih =>
    rw [List.length_cons] at hk hn ⊢
    obtain ⟨hlevel, hline⟩ := slave_bitActions acks (byteBit v k) sda (n := n) (by omega)
    obtain ⟨hlevels, hlines⟩ := ih (if byteBit v k then .rel else .low) (n := n + 1) (by omega) (by omega)
    rw [remainingActions_cons, sampledLevels_append, List.foldl_append, hlevel, hline, hlevels, hlines]
    exact ⟨rfl, by congr 1; omega⟩

/-- The bytes of a transaction that are left, then its stop. -/
theorem sampledLevels_bytes_stop (acks : Bool) (bs : List Byte) (sda : Drive) {n : Nat} (hn : n % 9 = 0) :
    sampledLevels acks ⟨⟨sda, .low⟩, true, n⟩ (bs.flatMap byteActions ++ stopActions) =
      bs.flatMap (wireBits !acks) ++ [false] := by
  induction bs generalizing sda n with
  | nil => cases sda <;> rfl
  | cons v rest ih =>
    have hlen : bitOrder.length = 8 := rfl
    obtain ⟨hlevels, hline⟩ := slave_remainingActions acks v bitOrder sda (n := n) (by omega) (by omega)
    rw [List.flatMap_cons, List.append_assoc, sampledLevels_append, byteActions_eq, hlevels, hline,
      ih .rel (by omega), List.flatMap_cons, List.append_assoc]
    rfl

/-- A whole transaction, from idle lines (R60, R190). -/
theorem sampledLevels_wireActions (acks : Bool) (bytes : List Byte) :
    sampledLevels acks ⟨⟨.rel, .rel⟩, false, 0⟩ (wireActions .sdaThenScl bytes) =
      bytes.flatMap (wireBits !acks) ++ [false] := by
  rw [← sampledLevels_bytes_stop acks bytes .low (n := 0) rfl, wireActions, List.append_assoc]
  rfl

/-- The reference slave's watch keeps the block's drive states. -/
theorem slaveWatch_drives (d : Drives) (acts : List PinAction) : (slaveWatch d acts).drives = replay d acts :=
  foldl_slaveSees_drives _ acts

end Machine

/-- Settles O58: the levels byte by byte, of which the slave decides the ninth; and whatever the actions, the slave
drives the data line in a ninth clock only, and the clock line never. -/
theorem referenceSlaveAcknowledgesEveryByte : Obligations.ReferenceSlaveAcknowledgesEveryByte := by
  refine ⟨fun acks bytes _ => sampledLevels_wireActions acks bytes, fun acks d acts => ?_⟩
  simp [slaveLevels, slaveDrives, lineLevel, masterLevel, slaveWatch_drives]

namespace Machine

/-! The display operations as transactions (R120, R123, R125). -/

theorem exec_dspCursor {s : State} (hp : s.phase = .idle) (column : BitVec 7) (page : BitVec 4) :
    exec (.dspCursor column page) s = .next
      (afterActions (wireActions s.cfg.startOrder (cursorTxn s.cfg (column.setWidth 8) page)) .rel .rel .idle s) := by
  simp [exec, execDspCursor, idlePhase, hp, cursorBody_eq]

/-- R125, R52: with a well-formed table the six bytes are those of the glyph's row. -/
theorem glyphRow_of_wf {c : Config} (hc : c.wf = true) {idx : Nat} (hi : idx ≤ 13) :
    glyphBytes c idx = some (glyphRow c idx) ∧ (glyphRow c idx).length = 6 := by
  obtain ⟨g, hg, hlen⟩ := Config.wf_glyph hc (idx := idx) (by omega)
  have hrow : glyphRow c idx = g := by simp [glyphRow, hg]
  rw [hrow]
  exact ⟨glyphBytes_eq (by omega) hg hlen, hlen⟩

theorem exec_dspGlyph {s : State} (hc : s.cfg.wf = true) (hp : s.phase = .idle) {idx : BitVec 4}
    (hi : idx.toNat ≤ 13) :
    exec (.dspGlyph idx) s = .next
      (afterActions (wireActions s.cfg.startOrder (glyphTxn s.cfg idx.toNat)) .rel .rel .idle s) := by
  simp [exec, execDspGlyph, idlePhase, hp, hi, glyphBody_eq (glyphRow_of_wf hc hi).1, glyphTxn]

/-! The cursor commands of the reference display (R60, R77). -/

/-- A command made of a base with a clear low nibble and of a low nibble is taken apart again. -/
theorem command_nibbles {base low : Byte} (hb : base &&& 0x0F = 0) (hl : low &&& 0xF0 = 0) :
    (base ||| low) &&& 0xF0 = base ∧ (base ||| low) &&& 0x0F = low := by
  have hbase : 0xF0 &&& base = base := by revert base; decide
  have hlow : 0x0F &&& low = low := by revert low; decide
  rw [BitVec.and_comm] at hb hl
  rw [BitVec.and_comm, BitVec.and_or_distrib_left, hbase, hl, BitVec.and_comm, BitVec.and_or_distrib_left, hlow, hb]
  exact ⟨BitVec.or_zero, BitVec.zero_or⟩

theorem displayCommand_columnLow (c : Config) {low : Byte} (hl : low &&& 0xF0 = 0) (d : Display) :
    displayCommand c low d =
      .ok { d with col := (d.col &&& 0x70) ||| (low &&& 0x0F).setWidth 7, pastEnd := false } :=
  if_pos hl

section
variable {c : Config} (hbases : c.basesOk = true) (hd : CursorCommandsDistinct c)
include hbases hd

theorem displayCommand_columnHigh {high : Byte} (hh : high &&& 0xF0 = 0) (d : Display) :
    displayCommand c (c.colHiBase ||| high) d =
      .ok { d with col := ((high &&& 0x07).setWidth 7 <<< 4) ||| (d.col &&& 0x0F), pastEnd := false } := by
  obtain ⟨hcol, -, -, -⟩ := hd
  obtain ⟨hkind, hoperand⟩ := command_nibbles ((Config.basesOk_iff c).1 hbases).1 hh
  have hseven : (c.colHiBase ||| high) &&& 0x07 = high &&& 0x07 := by
    conv_rhs => rw [← hoperand, BitVec.and_assoc]
    rfl
  rw [displayCommand, hkind, if_neg hcol, if_pos rfl, hseven]

theorem displayCommand_page (page : BitVec 4) (d : Display) :
    displayCommand c (c.pageBase ||| page.setWidth 8) d = .ok { d with page := page, pastEnd := false } := by
  obtain ⟨-, hpage, hne, -⟩ := hd
  obtain ⟨hkind, hoperand⟩ := command_nibbles ((Config.basesOk_iff c).1 hbases).2
    (show page.setWidth 8 &&& 0xF0 = (0 : Byte) by revert page; decide)
  have hback : (page.setWidth 8).setWidth 4 = page := by simp
  rw [displayCommand, hkind, if_neg hpage, if_neg hne.symm, if_pos rfl, hoperand, hback]

end

/-- A column is put together from its two nibbles, whatever the column before. -/
theorem column_of_nibbles (old column : BitVec 7) :
    ((column.setWidth 8 >>> 4 &&& (0x07 : Byte)).setWidth 7 <<< 4) |||
      ((old &&& 0x70 ||| (column.setWidth 8 &&& (0x0F : Byte) &&& 0x0F).setWidth 7) &&& 0x0F) = column := by
  have hold : 0x0F &&& (old &&& 0x70) = 0 := by revert old; decide
  rw [BitVec.and_comm (_ ||| _), BitVec.and_or_distrib_left, hold]
  revert column
  decide

/-- The display with its cursor set. -/
def Display.atCursor (column : BitVec 7) (page : BitVec 4) (d : Display) : Display :=
  { d with col := column, page := page, mode := .command, pastEnd := false }

theorem displayBytes_cursor {c : Config} (hbases : c.basesOk = true) (hd : CursorCommandsDistinct c)
    (column : BitVec 7) (page : BitVec 4) (d : Display) :
    displayBytes (displayCommand c) (cursorBytes c (column.setWidth 8) page) { d with mode := .command } =
      .ok (d.atCursor column page) := by
  have hlow : ∀ x : BitVec 7, x.setWidth 8 &&& (0x0F : Byte) &&& 0xF0 = 0 := by decide
  have hhigh : ∀ x : BitVec 7, x.setWidth 8 >>> 4 &&& (0xF0 : Byte) = 0 := by decide
  simp only [cursorBytes, displayBytes, displayCommand_columnLow c (hlow column),
    displayCommand_columnHigh hbases hd (hhigh column), displayCommand_page hbases hd, column_of_nibbles]
  rfl

/-! The transactions of the Display Driver, as the reference display takes them. -/

/-- One addressed to the display. -/
theorem displayTxn_txnBytes (c : Config) (ctrl : Byte) (bs : List Byte) (d : Display) :
    displayTxn c (wire (txnBytes c ctrl bs)) d = displayPayload c (ctrl :: bs) d :=
  if_pos rfl

/-- R123: the transaction of DSP.CURSOR sets the cursor. -/
theorem displayTxn_cursor {c : Config} (hbases : c.basesOk = true) (hd : CursorCommandsDistinct c)
    (column : BitVec 7) (page : BitVec 4) (d : Display) :
    displayTxn c (wire (cursorTxn c (column.setWidth 8) page)) d = .ok (d.atCursor column page) := by
  have hseq : cursorBytes c (column.setWidth 8) page ≠ c.initSeq := by
    obtain ⟨-, -, -, hseq⟩ := hd
    exact hseq _ _
  rw [cursorTxn, displayTxn_txnBytes, displayPayload, if_pos rfl, if_neg hseq, displayBytes_cursor hbases hd]

/-- A data-mode transaction stores its bytes. -/
theorem displayTxn_data (c : Config) (bs : List Byte) (d : Display) :
    displayTxn c (wire (txnBytes c ctrlData bs)) d = displayBytes displayData bs { d with mode := .data } := by
  rw [displayTxn_txnBytes]
  rfl

/-! The data bytes of the reference display (R59, R60). -/

/-- A cell has one address. -/
theorem cellAddr_inj {x x' : BitVec 7} {p p' : BitVec 4} : cellAddr x p = cellAddr x' p' ↔ x = x' ∧ p = p' := by
  unfold cellAddr
  constructor
  · intro h
    exact ⟨BitVec.eq_of_toNat_eq (by omega), BitVec.eq_of_toNat_eq (by omega)⟩
  · rintro ⟨rfl, rfl⟩
    rfl

/-- The display after a data byte that it takes. -/
def Display.stored (b : Byte) (d : Display) : Display :=
  { d with
    ram := memStore d.ram (cellAddr d.col d.page) b
    col := if d.col.toNat < 127 then d.col + 1 else d.col
    pastEnd := decide (d.col.toNat = 127) }

theorem displayData_stored {d : Display} (h : d.pastEnd = false) (b : Byte) :
    displayData b d = .ok (d.stored b) := by
  simp [displayData, Display.stored, h]

theorem displayData_pastEnd {d : Display} (h : d.pastEnd = true) (b : Byte) :
    displayData b d = .error .pastLastColumn :=
  if_pos h

/-- A data byte changes the picture at the cursor only. -/
theorem pixel_stored (b : Byte) (d : Display) (x : BitVec 7) (p : BitVec 4) :
    (d.stored b).pixel x p = if x = d.col ∧ p = d.page then some b else d.pixel x p := by
  split
  · rename_i h
    obtain ⟨rfl, rfl⟩ := h
    exact memLookup_memStore_self ..
  · rename_i h
    exact memLookup_memStore_ne (mt cellAddr_inj.1 h)

theorem stored_before_end {d : Display} (h : d.col.toNat < 127) (b : Byte) :
    (d.stored b).col.toNat = d.col.toNat + 1 ∧ (d.stored b).pastEnd = false := by
  have hcol : (d.stored b).col = d.col + 1 := if_pos h
  have hne : d.col.toNat ≠ 127 := by omega
  exact ⟨by rw [hcol]; bv_omega, by simp [Display.stored, hne]⟩

/-- The picture after a data byte and the bytes after it, column by column. -/
theorem pixel_stored_tail {d d' : Display} {b : Byte} {rest : List Byte} {x : BitVec 7} {p : BitVec 4}
    (h : d'.pixel x p =
      if p = d.page ∧ d.col.toNat + 1 ≤ x.toNat ∧ x.toNat < d.col.toNat + 1 + rest.length
      then rest[x.toNat - (d.col.toNat + 1)]? else (d.stored b).pixel x p) :
    d'.pixel x p =
      if p = d.page ∧ d.col.toNat ≤ x.toNat ∧ x.toNat < d.col.toNat + (b :: rest).length
      then (b :: rest)[x.toNat - d.col.toNat]? else d.pixel x p := by
  rw [h, pixel_stored, List.length_cons]
  by_cases hp : p = d.page
  · simp only [hp, true_and, and_true]
    rcases Nat.lt_trichotomy x.toNat d.col.toNat with hx | hx | hx
    · have hne : x ≠ d.col := by rintro rfl; omega
      rw [if_neg (show ¬ (d.col.toNat + 1 ≤ x.toNat ∧ _) by omega), if_neg hne,
        if_neg (show ¬ (d.col.toNat ≤ x.toNat ∧ _) by omega)]
    · have heq : x = d.col := BitVec.eq_of_toNat_eq hx
      simp [heq]
    · have hne : x ≠ d.col := by rintro rfl; omega
      have hsub : x.toNat - d.col.toNat = x.toNat - (d.col.toNat + 1) + 1 := by omega
      rw [if_neg hne, hsub, List.getElem?_cons_succ]
      exact if_congr (by omega) rfl rfl
  · simp [hp]

/-- Data bytes that fit on the page: each stands in its column, and nothing else of the picture changes. -/
theorem displayBytes_data (bs : List Byte) {d : Display} (hend : d.pastEnd = false)
    (hfit : d.col.toNat + bs.length ≤ 128) :
    ∃ d', displayBytes displayData bs d = .ok d' ∧ ∀ (x : BitVec 7) (p : BitVec 4), d'.pixel x p =
      if p = d.page ∧ d.col.toNat ≤ x.toNat ∧ x.toNat < d.col.toNat + bs.length
      then bs[x.toNat - d.col.toNat]? else d.pixel x p := by
  induction bs generalizing d with
  | nil => exact ⟨d, rfl, fun x p => by rw [if_neg]; simp⟩
  | cons b rest ih =>
    rw [List.length_cons] at hfit
    rw [displayBytes, displayData_stored hend]
    by_cases hcol : d.col.toNat < 127
    · obtain ⟨hnext, hopen⟩ := stored_before_end hcol b
      obtain ⟨d', hrun, hpix⟩ := ih hopen (by omega)
      rw [hnext] at hpix
      exact ⟨d', hrun, fun x p => pixel_stored_tail (hpix x p)⟩
    · obtain rfl : rest = [] := List.eq_nil_of_length_eq_zero (by omega)
      exact ⟨d.stored b, rfl, fun x p => pixel_stored_tail (if_neg (by simp)).symm⟩

/-- Data bytes that do not fit: the one after column 127 is refused. -/
theorem displayBytes_data_pastEnd (bs : List Byte) {d : Display} (hend : d.pastEnd = false)
    (hlong : 128 < d.col.toNat + bs.length) : displayBytes displayData bs d = .error .pastLastColumn := by
  induction bs generalizing d with
  | nil => rw [List.length_nil] at hlong; omega
  | cons b rest ih =>
    rw [List.length_cons] at hlong
    rw [displayBytes, displayData_stored hend]
    by_cases hcol : d.col.toNat < 127
    · obtain ⟨hnext, hopen⟩ := stored_before_end hcol b
      exact ih hopen (by omega)
    · obtain ⟨b', rest', rfl⟩ := List.exists_cons_of_length_pos (show 0 < rest.length by omega)
      have hfull : (d.stored b).pastEnd = true := decide_eq_true (by omega)
      show displayBytes displayData (b' :: rest') (d.stored b) = _
      rw [displayBytes, displayData_pastEnd hfull]

/-! A cursor and the data bytes after it (R59). -/

section
variable {c : Config} (hbases : c.basesOk = true) (hd : CursorCommandsDistinct c) (column : BitVec 7)
  (page : BitVec 4) {bs : List Byte} (rest : List Txn) (d : Display)
include hbases hd

/-- Where the bytes fit, they stand from the cursor on, and nothing else of the picture changes. -/
theorem displayTxns_cursor_data (hfit : column.toNat + bs.length ≤ 128) :
    ∃ d' : Display,
      displayTxns c (wire (cursorTxn c (column.setWidth 8) page) :: wire (txnBytes c ctrlData bs) :: rest) d =
        displayTxns c rest d' ∧
      ∀ (x : BitVec 7) (p : BitVec 4), d'.pixel x p =
        if p = page ∧ column.toNat ≤ x.toNat ∧ x.toNat < column.toNat + bs.length
        then bs[x.toNat - column.toNat]? else d.pixel x p := by
  obtain ⟨d', hrun, hpix⟩ := displayBytes_data bs (d := { d.atCursor column page with mode := .data }) rfl hfit
  refine ⟨d', ?_, hpix⟩
  simp only [displayTxns, displayTxn_cursor hbases hd, displayTxn_data, hrun]

/-- Where they do not, the display refuses. -/
theorem displayTxns_cursor_data_pastEnd (hlong : 128 < column.toNat + bs.length) :
    displayTxns c (wire (cursorTxn c (column.setWidth 8) page) :: wire (txnBytes c ctrlData bs) :: rest) d =
      .error .pastLastColumn := by
  have hrun := displayBytes_data_pastEnd bs (d := { d.atCursor column page with mode := .data }) rfl hlong
  simp only [displayTxns, displayTxn_cursor hbases hd, displayTxn_data, hrun]

end

end Machine

/-- Settles O55: the actions decode to the two transactions; the first sets the cursor, and the second stores six bytes
from there, or runs past column 127. -/
theorem glyphStandsAtItsCursor : Obligations.GlyphStandsAtItsCursor := by
  intro s d column page idx hwf horder hphase hdistinct hidx
  obtain ⟨hbases, -⟩ := Config.wf_parts hwf
  obtain ⟨-, hlen⟩ := glyphRow_of_wf hwf hidx
  obtain ⟨s₁, hs₁, hcfg, hphase₁, htrace₁⟩ : ∃ s₁, exec (.dspCursor column page) s = .next s₁ ∧ s₁.cfg = s.cfg ∧
      s₁.phase = .idle ∧ s₁.trace = s.trace ++ wireActions .sdaThenScl (cursorTxn s.cfg (column.setWidth 8) page) :=
    ⟨_, exec_dspCursor hphase column page, rfl, rfl, by simp [horder]⟩
  have hglyph := exec_dspGlyph (hcfg ▸ hwf) hphase₁ hidx
  rw [hcfg, horder] at hglyph
  refine ⟨s₁, _, [cursorTxn s.cfg (column.setWidth 8) page, glyphTxn s.cfg idx.toNat].flatMap (wireActions .sdaThenScl),
    _, hs₁, hglyph, by simp [htrace₁], busDecode_transactions _, fun hfit => ?_, fun hlong => ?_⟩
  · have hpicture := displayTxns_cursor_data hbases hdistinct column page [] d (show _ + _ ≤ 128 by rw [hlen]; omega)
    rwa [hlen] at hpicture
  · exact displayTxns_cursor_data_pastEnd hbases hdistinct column page [] d (show 128 < _ + _ by rw [hlen]; omega)

end Sys2Proof
end

section
/-! SUPPORT. Family 30_encoding.md: the encoder and the decoder are inverse to each other (30_encoding.md rules R70 to
R73), a row of the opcode map holds exactly the words of its operation (R72), and what the port does with a presented
word (60_exceptions.md rule R192). -/

namespace Sys2Proof

open Machine

/-! An operand of `n` bits in the 16-bit field `IMM`, whose `k` high bits are unused (R71, R73). -/

theorem high_setWidth {n : Nat} (k : Nat) (b : BitVec n) : (b.setWidth 16).extractLsb' n k = 0 := by
  ext i hi
  simp

section
variable {n k : Nat} (hnk : n + k = 16)
include hnk

theorem low_setWidth (b : BitVec n) : (b.setWidth 16).extractLsb' 0 n = b := by
  rw [BitVec.extractLsb'_setWidth_of_le (by omega), BitVec.extractLsb'_eq_self]

theorem setWidth_low {imm : Half} (h : imm.extractLsb' n k = 0) : (imm.extractLsb' 0 n).setWidth 16 = imm := by
  ext i hi
  by_cases hin : i < n
  · simp [hin, hi]
  · have hbit := congrArg (·.getLsbD (i - n)) h
    simp only [BitVec.getLsbD_extractLsb', show n + (i - n) = i by omega] at hbit
    simpa [hin, hi, show i - n < k by omega] using hbit.symm

/-- The mask of the row stands over the unused bits (R72). -/
theorem high_eq_zero_of_masked {imm : Half} (h : imm &&& BitVec.allOnes 16 <<< n = 0) : imm.extractLsb' n k = 0 := by
  ext i hi
  have hbit := congrArg (·.getLsbD (n + i)) h
  simpa [show n + i < 16 by omega, show i < 16 by omega, -BitVec.reduceAllOnes] using hbit

end

/-! A command word by its four fields (R70). -/

theorem exists_pack (w : CmdWord) : ∃ op pg col imm, w = pack op pg col imm := ⟨_, _, _, _, (pack_fields w).symm⟩

theorem pack_inj {op op' : BitVec 5} {pg pg' : BitVec 4} {col col' : BitVec 7} {imm imm' : Half} :
    pack op pg col imm = pack op' pg' col' imm' ↔ op = op' ∧ pg = pg' ∧ col = col' ∧ imm = imm' := by
  constructor
  · intro h
    have hop := congrArg opField h
    have hpg := congrArg pgField h
    have hcol := congrArg colField h
    have himm := congrArg immField h
    simp only [opField_pack, pgField_pack, colField_pack, immField_pack] at hop hpg hcol himm
    exact ⟨hop, hpg, hcol, himm⟩
  · rintro ⟨rfl, rfl, rfl, rfl⟩
    rfl

/-- Settles O1, operation by operation: the unused bits of the encoded word are zero, and each operand is read from the
field it was put in. -/
theorem decodeInvertsEncode : Obligations.DecodeInvertsEncode := by
  intro i
  cases i with
  | busInit | busStop | dspInit | dspClear | adcCfgi | adcCfgt | adcSample | acqAvg => rfl
  | busStart b | busWrite b =>
    simp [encode, decode, whenUnusedZero, low_setWidth (k := 8) rfl, high_setWidth (n := 8)]
  | dspGlyph idx =>
    simp [encode, decode, whenUnusedZero, low_setWidth (k := 12) rfl, high_setWidth (n := 4)]
  | linInt avg =>
    simp [encode, decode, whenUnusedZero, low_setWidth (k := 6) rfl, high_setWidth (n := 10)]
  | dspCursor column page => simp [encode, decode, whenUnusedZero]
  | dspInt value column page => simp [encode, decode]
  | linTc avg => simp [encode, decode, whenUnusedZero]

/-! The rows of the decoder, read backwards (R71, R73): what a word of a row encodes, by the fields the row leaves
unused. -/

theorem whenUnusedZero_eq_ok {unused : Bool} {i j : Instr} :
    whenUnusedZero unused i = .ok j ↔ unused = true ∧ i = j := by
  cases unused <;> simp [whenUnusedZero]

section
variable {code : Nat} {op : BitVec 5} {pg : BitVec 4} {col : BitVec 7} {imm : Half} {i j : Instr}
  (hop : op.toNat = code)
include hop

theorem encode_of_noOperand (hi : encode i = pack (.ofNat 5 code) 0 0 0)
    (h : whenUnusedZero (decide (pg = 0 ∧ col = 0 ∧ imm = 0)) i = .ok j) : encode j = pack op pg col imm := by
  obtain ⟨hzero, rfl⟩ := whenUnusedZero_eq_ok.1 h
  obtain ⟨rfl, rfl, rfl⟩ := of_decide_eq_true hzero
  rw [hi, ← hop, BitVec.ofNat_toNat, BitVec.setWidth_eq]

theorem encode_of_lowOperand {n k : Nat} (hnk : n + k = 16) {f : BitVec n → Instr}
    (hf : ∀ b, encode (f b) = pack (.ofNat 5 code) 0 0 (b.setWidth 16))
    (h : whenUnusedZero (decide (pg = 0 ∧ col = 0) && decide (imm.extractLsb' n k = 0)) (f (imm.extractLsb' 0 n)) =
      .ok j) : encode j = pack op pg col imm := by
  obtain ⟨hzero, rfl⟩ := whenUnusedZero_eq_ok.1 h
  obtain ⟨hpgcol, hhigh⟩ := Bool.and_eq_true_iff.1 hzero
  obtain ⟨rfl, rfl⟩ := of_decide_eq_true hpgcol
  rw [hf, setWidth_low hnk (of_decide_eq_true hhigh), ← hop, BitVec.ofNat_toNat, BitVec.setWidth_eq]

end

/-- Settles O2, row by row of the decoder. -/
theorem encodeInvertsDecode : Obligations.EncodeInvertsDecode := by
  intro w i h
  obtain ⟨op, pg, col, imm, rfl⟩ := exists_pack w
  simp only [decode, opField_pack, pgField_pack, colField_pack, immField_pack] at h
  split at h
  -- The rows without operands, then those with one operand in part of `IMM`.
  case h_1 hop | h_4 hop | h_5 hop | h_7 hop | h_10 hop | h_11 hop | h_12 hop | h_13 hop =>
    exact encode_of_noOperand hop rfl h
  case h_2 hop | h_3 hop | h_8 hop | h_14 hop => exact encode_of_lowOperand hop rfl (fun _ => rfl) h
  case h_6 hop => -- DSP.CURSOR
    obtain ⟨himm, rfl⟩ := whenUnusedZero_eq_ok.1 h
    rw [of_decide_eq_true himm, show op = 0x09 from BitVec.eq_of_toNat_eq hop]
    rfl
  case h_9 hop => -- DSP.INT
    cases h
    rw [show op = 0x0C from BitVec.eq_of_toNat_eq hop]
    rfl
  case h_15 hop => -- LIN.TC
    obtain ⟨hpgcol, rfl⟩ := whenUnusedZero_eq_ok.1 h
    obtain ⟨rfl, rfl⟩ := of_decide_eq_true hpgcol
    rw [show op = 0x15 from BitVec.eq_of_toNat_eq hop]
    rfl
  case h_16 => nomatch h -- no row

/-! The opcode map (R72): a row holds the words of its operation, whatever their operands, and no others. -/

/-- A word of an operation selects the operation's row. -/
theorem selectsRow_encode : ∀ i : Instr, selectsRow (encode i) i
  | .busInit => Laws.EncodesInRow.busInit
  | .busStart b => Laws.EncodesInRow.busStart b
  | .busWrite b => Laws.EncodesInRow.busWrite b
  | .busStop => Laws.EncodesInRow.busStop
  | .dspInit => Laws.EncodesInRow.dspInit
  | .dspCursor column page => Laws.EncodesInRow.dspCursor column page
  | .dspClear => Laws.EncodesInRow.dspClear
  | .dspGlyph idx => Laws.EncodesInRow.dspGlyph idx
  | .dspInt value column page => Laws.EncodesInRow.dspInt value column page
  | .adcCfgi => Laws.EncodesInRow.adcCfgi
  | .adcCfgt => Laws.EncodesInRow.adcCfgt
  | .adcSample => Laws.EncodesInRow.adcSample
  | .acqAvg => Laws.EncodesInRow.acqAvg
  | .linInt avg => Laws.EncodesInRow.linInt avg
  | .linTc avg => Laws.EncodesInRow.linTc avg

theorem selectsRow_of_decode {w : CmdWord} {i : Instr} (h : decode w = .ok i) : selectsRow w i :=
  encodeInvertsDecode w i h ▸ selectsRow_encode i

/-- Every row's mask covers `OP`, so a word of the row has the row's `OP`. -/
theorem opField_of_selectsRow {w : CmdWord} {i : Instr} (h : selectsRow w i) : opField w = opField (rowMatch i) := by
  have hmask : opField (rowMask i) = BitVec.allOnes 5 := by cases i <;> simp [rowMask, opField]
  rw [← h, opField, opField, BitVec.extractLsb'_and]
  exact (hmask ▸ BitVec.and_allOnes).symm

/-- A row is its `OP`: outside it, `match` is zero. -/
theorem rowMatch_eq_pack (i : Instr) : rowMatch i = pack (opField (rowMatch i)) 0 0 0 := by
  cases i <;> simp [rowMatch, opField, pack]

theorem rowMatch_eq_of_selectsRow {w : CmdWord} {i : Instr} (h : selectsRow w i) :
    rowMatch i = pack (opField w) 0 0 0 := by
  rw [rowMatch_eq_pack, opField_of_selectsRow h]

section
variable {op op' : BitVec 5} {pg pg' : BitVec 4} {col col' : BitVec 7} {imm imm' : Half} {w : CmdWord}

/-- A word under a mask, field by field. -/
theorem and_pack_eq_pack_iff :
    w &&& pack op pg col imm = pack op' pg' col' imm' ↔
      opField w &&& op = op' ∧ pgField w &&& pg = pg' ∧ colField w &&& col = col' ∧ immField w &&& imm = imm' := by
  rw [← pack_inj, ← pack_and, pack_fields]

end

/-- A word of a row whose one operand is the low bits of `IMM`. -/
theorem exists_encode_of_lowOperand {n k : Nat} (hnk : n + k = 16) {op : BitVec 5} (f : BitVec n → Instr)
    (hf : ∀ b, encode (f b) = pack op 0 0 (b.setWidth 16)) {m : CmdWord} (hm : ∀ b, rowMatch (f b) = m) {w : CmdWord}
    (h : w &&& pack (.allOnes 5) (.allOnes 4) (.allOnes 7) (BitVec.allOnes 16 <<< n) = pack op 0 0 0) :
    ∃ j, rowMatch j = m ∧ encode j = w := by
  simp only [and_pack_eq_pack_iff, BitVec.and_allOnes] at h
  obtain ⟨hop, hpg, hcol, himm⟩ := h
  refine ⟨f ((immField w).extractLsb' 0 n), hm _, ?_⟩
  rw [hf, setWidth_low hnk (high_eq_zero_of_masked hnk himm), ← hop, ← hpg, ← hcol, pack_fields]

/-- A word that selects a row is a word of its operation. -/
theorem exists_encode_of_selectsRow {w : CmdWord} {i : Instr} (h : selectsRow w i) :
    ∃ j, rowMatch j = rowMatch i ∧ encode j = w := by
  cases i with
  | busInit | busStop | dspInit | dspClear | adcCfgi | adcCfgt | adcSample | acqAvg =>
    exact ⟨_, rfl, h.symm.trans BitVec.and_allOnes⟩
  | busStart => exact exists_encode_of_lowOperand (k := 8) rfl .busStart (fun _ => rfl) (fun _ => rfl) h
  | busWrite => exact exists_encode_of_lowOperand (k := 8) rfl .busWrite (fun _ => rfl) (fun _ => rfl) h
  | dspGlyph => exact exists_encode_of_lowOperand (k := 12) rfl .dspGlyph (fun _ => rfl) (fun _ => rfl) h
  | linInt => exact exists_encode_of_lowOperand (k := 6) rfl .linInt (fun _ => rfl) (fun _ => rfl) h
  | linTc =>
    exact exists_encode_of_lowOperand (k := 0) (op := 0x15) rfl .linTc
      (fun avg => by rw [encode, BitVec.setWidth_eq]) (fun _ => rfl) h
  | dspCursor =>
    have hw : w &&& pack (.allOnes 5) 0 0 (.allOnes 16) = pack 0x09 0 0 0 := h
    obtain ⟨hop, -, -, himm⟩ := and_pack_eq_pack_iff.1 hw
    rw [BitVec.and_allOnes] at hop himm
    exact ⟨.dspCursor (colField w) (pgField w), rfl, by rw [encode, ← hop, ← himm, pack_fields]⟩
  | dspInt =>
    have hw : w &&& pack (.allOnes 5) 0 0 0 = pack 0x0C 0 0 0 := h
    obtain ⟨hop, -⟩ := and_pack_eq_pack_iff.1 hw
    rw [BitVec.and_allOnes] at hop
    exact ⟨.dspInt (immField w) (colField w) (pgField w), rfl, by rw [encode, ← hop, pack_fields]⟩

/-- Settles O3: a word that selects a row is a word of the row's operation, so O1 decodes it. -/
theorem opcodeMapSelectsOperation : Obligations.OpcodeMapSelectsOperation := by
  refine ⟨fun w i => selectsRow_of_decode, fun w i h => ?_, fun w i j hi hj => ?_⟩
  · obtain ⟨j, hj, rfl⟩ := exists_encode_of_selectsRow h
    exact ⟨j, decodeInvertsEncode j, hj⟩
  · rw [rowMatch_eq_of_selectsRow hi, rowMatch_eq_of_selectsRow hj]

/-- Settles O4, word by word; 0x0D has no row. -/
theorem specCommandWordsDecode : Obligations.SpecCommandWordsDecode := by
  refine ⟨rfl, rfl, rfl, rfl, rfl, rfl, rfl, rfl, rfl, rfl, rfl, fun i h => ?_⟩
  have hreserved : decode 0x6FFFFFFF = .error .reservedOp := rfl
  rw [hreserved] at h
  nomatch h

namespace Machine

/-! What the port does with a presented word (R73, R192). -/

theorem step_of_presented {s : State} {a : HostAct} {rest : List HostAct} (hwf : s.cfg.wf = true)
    (hq : s.seq = .idle) (hh : s.host = a :: rest) : step s = hostAct a { s with host := rest } := by
  simp [step, stepWith, seqStep, portStep, hwf, hq, hh]

theorem runWord_of_decode {w : CmdWord} {i : Instr} (h : decode w = .ok i) (s : State) : runWord w s = exec i s := by
  simp [runWord, h]

theorem runWord_of_no_row {w : CmdWord} (h : ∀ i, ¬ selectsRow w i) (s : State) : runWord w s = .refused .reservedCw := by
  unfold runWord
  cases hd : decode w with
  | ok i => exact absurd (selectsRow_of_decode hd) (h i)
  | error r => rfl

theorem tableWord_toNat (w : CmdWord) : tableWord 32 w.toNat = w := by
  rw [tableWord, Nat.mod_eq_of_lt w.isLt, BitVec.ofNat_toNat, BitVec.setWidth_eq]

end Machine

/-- Settles O5: a word that decodes selects a row, so one without a row does not decode; and a row's `OP` is none of
the reserved ones. -/
theorem reservedWordIsRefused : Obligations.ReservedWordIsRefused := by
  refine ⟨fun s w rest hwf hq hh hrow => ?_, fun w hop i hi => ?_⟩
  · exact (step_of_presented hwf hq hh).trans (runWord_of_no_row hrow _)
  · rw [opField_of_selectsRow hi] at hop
    cases i <;> simp [rowMatch, opField] at hop

/-- Settles O6: each act runs its word, and the word of a table row is the act `withFetchWord` puts first. -/
theorem presentedWordIsExecuted : Obligations.PresentedWordIsExecuted := by
  refine ⟨fun s w rest i hwf hq hh hd => ?_, fun s base back v rest i hwf hq hh hv hd => ?_, fun s w i hwf hd => ?_⟩
  · exact (step_of_presented hwf hq hh).trans (runWord_of_decode hd _)
  · subst hv
    exact (step_of_presented hwf hq hh).trans (runWord_of_decode hd _)
  · have hfetch : (s.withFetchWord 32 w.toNat).host = .issue w :: s.host :=
      congrArg (HostAct.issue · :: s.host) (tableWord_toNat w)
    exact (step_of_presented (s := s.withFetchWord 32 w.toNat) hwf rfl hfetch).trans (runWord_of_decode hd _)

end Sys2Proof
end

section
/-! SUPPORT. Family 40_bus_master.md: the operations of the Bus Driver (40_bus_master.md rules R103 to R106), the
admission table of `PHASE` (R107), the legal framing of `TRACE` (R109), and what its decoder reads back (R110 to
R112). -/

namespace Sys2Proof

open Machine

namespace Machine

/-! Admission (R107, R184). -/

/-- A refusal that no check names, and that the body does not answer, is not the answer. -/
theorem checkThen_ne_refused {checks : List (Bool × Refusal)} {s : State} {body : State → Result} {r : Refusal}
    (hc : ∀ c ∈ checks, c.2 ≠ r) (hb : body s ≠ .refused r) : checkThen checks s body ≠ .refused r := by
  induction checks with
  | nil => exact hb
  | cons c rest ih =>
    obtain ⟨ok, r'⟩ := c
    obtain ⟨hr', hrest⟩ := List.forall_mem_cons.1 hc
    cases ok with
    | false => simpa using hr'
    | true => simpa using ih hrest

/-- A refusal that only the first check names is answered exactly where that check fails. -/
theorem checkThen_refused_iff {ok : Bool} {r : Refusal} {rest : List (Bool × Refusal)} {s : State}
    {body : State → Result} (hc : ∀ c ∈ rest, c.2 ≠ r) (hb : body s ≠ .refused r) :
    checkThen ((ok, r) :: rest) s body = .refused r ↔ ok = false := by
  cases ok with
  | false => simp
  | true => simpa using checkThen_ne_refused hc hb

theorem TxnsAnswer.ne_busPhase {s : State} {r : Result} (h : TxnsAnswer s r) : r ≠ .refused .busPhase := by
  obtain ⟨_, _, rfl⟩ | rfl := h
  · exact nofun
  · exact nofun

theorem linTcBody_ne_busPhase (avg : Half) (s : State) : linTcBody avg s ≠ .refused .busPhase := by
  simp only [linTcBody, refuse]
  split
  · exact nofun
  · exact nofun

/-- R107: BUS_PHASE is answered exactly in the phases that the table leaves out for the operation. -/
theorem exec_refused_busPhase_iff (i : Instr) (s : State) :
    exec i s = .refused .busPhase ↔ phaseAdmits i s.phase = false := by
  cases i with
  | busInit =>
    refine Iff.trans (checkThen_refused_iff (by simp) nofun) ?_
    cases s.phase <;> decide
  | busStart | busWrite | busStop | dspInit | dspCursor | dspClear =>
    exact checkThen_refused_iff (by simp) nofun
  | dspGlyph idx => exact checkThen_refused_iff (by simp) (txnsAnswer_glyphBody _ s).ne_busPhase
  | dspInt v column page => exact checkThen_refused_iff (by simp) (txnsAnswer_intBody v column page s).ne_busPhase
  | adcCfgi | adcCfgt | linInt => exact iff_of_false (fun h => nomatch h) (fun h => nomatch h)
  | adcSample | acqAvg => exact iff_of_false (checkThen_ne_refused (by simp [configured]) nofun) (fun h => nomatch h)
  | linTc avg => exact iff_of_false (checkThen_ne_refused (by simp) (linTcBody_ne_busPhase avg s)) (fun h => nomatch h)

/-- A display operation, as `ExecStep.display` names them: it is none of the Bus Driver's, and ends idle (R107). -/
theorem phaseAfter_display {i : Instr}
    (hi : i ∈ [.dspInit, .dspClear] ∨ (∃ c p, i = .dspCursor c p) ∨ (∃ g, i = .dspGlyph g) ∨
      ∃ v c p, i = .dspInt v c p) (p : Phase) : isBus i = false ∧ phaseAfter i p = .idle := by
  simp only [List.mem_cons, List.not_mem_nil, or_false] at hi
  obtain (rfl | rfl) | ⟨_, _, rfl⟩ | ⟨_, rfl⟩ | ⟨_, _, _, rfl⟩ := hi <;> exact ⟨rfl, rfl⟩

theorem exec_phase {i : Instr} {s t : State} (h : exec i s = .next t) : t.phase = phaseAfter i s.phase := by
  cases exec_cases h with
  | display _ _ _ _ hd => exact (phaseAfter_display hd s.phase).2.symm
  | _ => rfl

end Machine

/-- Settles O21: the checks before an operation's body, of which only the first is for BUS_PHASE, and the `PHASE` that
each body leaves. -/
theorem phaseTable : Obligations.PhaseTable :=
  fun i s => ⟨exec_refused_busPhase_iff i s, fun _ => exec_phase⟩

namespace Machine

/-! The four operations where they are admitted (R103 to R106). -/

section
variable {s : State}

theorem exec_busInit (hp : s.phase ≠ .transmitting) :
    exec .busInit s = .next (afterActions [.sclRel, .sdaRel] .rel .rel .idle s) := by
  simp [exec, execBusInit, hp, busInitBody_eq]

theorem exec_busStart (hp : s.phase = .idle) (a : Byte) :
    exec (.busStart a) s = .next (afterActions (startActions s.cfg.startOrder a) .rel .low .transmitting s) := by
  simp [exec, execBusStart, hp, busStartBody_eq]

theorem exec_busWrite (hp : s.phase = .transmitting) (v : Byte) :
    exec (.busWrite v) s = .next (afterActions (byteActions v) .rel .low .transmitting s) := by
  simp [exec, execBusWrite, hp, busWriteBody_eq]

theorem exec_busStop (hp : s.phase = .transmitting) :
    exec .busStop s = .next (afterActions stopActions .rel .rel .idle s) := by
  simp [exec, execBusStop, hp, busStopBody_eq]

end

/-- The actions a Bus Driver operation emits: its operand and `START_ORDER` determine them (R102). -/
def busActions (o : StartOrder) : Instr → List PinAction
  | .busInit => [.sclRel, .sdaRel]
  | .busStart a => startActions o a
  | .busWrite v => byteActions v
  | .busStop => stopActions
  | _ => []

theorem exec_busActions {i : Instr} {s t : State} (hi : isBus i = true) (h : exec i s = .next t) :
    t.trace = s.trace ++ busActions s.cfg.startOrder i := by
  cases exec_cases h with
  | busInit | busStart | busWrite | busStop => exact trace_afterActions ..
  | display _ _ _ _ hd => exact absurd hi (by simp [(phaseAfter_display hd s.phase).1])
  | _ => cases hi

end Machine

/-- Settles O25: the emitted actions are those of `busActions`, in which no state occurs. -/
theorem busDriverHasNoInput : Obligations.BusDriverHasNoInput := by
  intro i s₁ s₂ t₁ t₂ hi ho h₁ h₂
  exact ⟨busActions s₁.cfg.startOrder i, exec_busActions hi h₁, ho ▸ exec_busActions hi h₂⟩

namespace Machine

/-! The actions of one byte, counted and as edges (R104). -/

/-- What is left of a byte: four actions for each bit, one more for each bit that is 1, and the acknowledgment slot. -/
theorem length_remainingActions (v : Byte) (ks : List Nat) :
    (remainingActions v ks).length = 4 * ks.length + 4 + (ks.filter (byteBit v)).length := by
  induction ks with
  | nil => rfl
  | cons k rest ih =>
    rw [remainingActions_cons, List.length_append, ih]
    cases hb : byteBit v k <;> simp [bitActions, hb] <;> omega

theorem length_byteActions (v : Byte) : (byteActions v).length = 36 + popcount v :=
  length_remainingActions v bitOrder

/-- One `HOLD` for each bit, and the one `NOP` of the acknowledgment slot. -/
theorem count_remainingActions (v : Byte) (ks : List Nat) :
    (remainingActions v ks).count .hold = ks.length ∧ (remainingActions v ks).count .nop = 1 := by
  induction ks with
  | nil => exact ⟨rfl, rfl⟩
  | cons k rest ih =>
    obtain ⟨hhold, hnop⟩ := ih
    rw [remainingActions_cons, List.count_append, List.count_append, hhold, hnop]
    cases byteBit v k <;> simp [bitActions] <;> omega

theorem length_startActions (o : StartOrder) (a : Byte) : (startActions o a).length = 38 + popcount a := by
  rw [startActions, List.length_append, length_byteActions]
  cases o <;> simp [startCondActions] <;> omega

section
variable {d : Drives} (h : d.scl = .low)
include h

/-- The data line moves for a bit before its clock rises. -/
theorem dataEdges_bitActions (b : Bool) : ∀ e ∈ dataEdges d (bitActions b), e.scl = .low := by
  obtain ⟨sda, scl⟩ := d
  obtain rfl : scl = .low := h
  cases b <;> cases sda <;> simp [bitActions, dataEdges, edgeOf, applyAction]

theorem dataEdges_remainingActions (v : Byte) (ks : List Nat) :
    ∀ e ∈ dataEdges d (remainingActions v ks), e.scl = .low := by
  induction ks generalizing d with
  | nil =>
    obtain ⟨sda, scl⟩ := d
    obtain rfl : scl = .low := h
    cases sda <;> simp [remainingActions, dataEdges, edgeOf]
  | cons k rest ih =>
    rw [remainingActions_cons, dataEdges_append, List.forall_mem_append]
    exact ⟨dataEdges_bitActions h _, ih (busEvents_bitActions h _).2⟩

/-- R109 (a): every data edge of a byte happens with the clock low. -/
theorem dataEdges_byteActions (v : Byte) : ∀ e ∈ dataEdges d (byteActions v), e.scl = .low :=
  dataEdges_remainingActions h v bitOrder

/-- R106: the clock rises with data low, then data rises. -/
theorem busEvents_stopActions : busEvents d stopActions = [.clk false, .stopCond] :=
  busEvents_bytes_stop h []

end

/-- R105: the start condition, then the nine clock rises of the address byte. -/
theorem busEvents_startActions (a : Byte) :
    busEvents ⟨.rel, .rel⟩ (startActions .sdaThenScl a) = .startCond :: (wireBits true a).map .clk := by
  rw [← busEvents_byteActions (d := ⟨.low, .low⟩) rfl]
  rfl

end Machine

/-- Settles O26: the end state is the body's closed form; the events are those of two actions, from four drive
states. -/
theorem busInitReleasesLines : Obligations.BusInitReleasesLines :=
  ⟨fun _ => exec_busInit, fun s hp => (exec_refused_busPhase_iff .busInit s).2 (by rw [hp]; rfl), rfl, rfl, rfl, rfl⟩

/-- Settles O27: the bits are counted and seen one by one, by induction over those still to send. -/
theorem busWriteSendsByte : Obligations.BusWriteSendsByte := by
  intro v s
  obtain ⟨hhold, hnop⟩ := count_remainingActions v bitOrder
  refine ⟨fun hp => exec_busWrite hp v, fun hp => ?_, length_byteActions v, hhold, hnop, fun d hd => ?_⟩
  · exact (exec_refused_busPhase_iff _ s).2 (decide_eq_false hp)
  · rw [busEvents_byteActions hd, wireBits_eq]
    rfl

/-- Settles O28: the start condition is a falling data edge with the clock released; the byte is BUS.WRITE's. -/
theorem busStartOpensTransaction : Obligations.BusStartOpensTransaction := by
  intro a s
  refine ⟨fun hp ho => ?_, fun hp ho => ?_, fun hp => ?_, fun o => length_startActions o a, ?_⟩
  · rw [exec_busStart hp, ho]
    rfl
  · rw [exec_busStart hp, ho]
    rfl
  · exact (exec_refused_busPhase_iff _ s).2 (decide_eq_false hp)
  · exact busEvents_startActions a

/-- Settles O29: the end state is the body's closed form; of its three actions the last is the stop condition. -/
theorem busStopClosesTransaction : Obligations.BusStopClosesTransaction :=
  ⟨fun _ => exec_busStop, fun s hp => (exec_refused_busPhase_iff .busStop s).2 (decide_eq_false hp),
    fun _ => busEvents_stopActions, rfl, rfl⟩

/-- Settles O33: between transactions the lines are released and the decoder is closed, so each is read back by
itself; that a transaction has a byte is not needed. -/
theorem transactionsReadBack : Obligations.TransactionsReadBack :=
  fun ts _ => busDecode_transactions ts

/-- Settles O30: the three operations emit the actions of one transaction of two bytes. -/
theorem serializationReadsBack : Obligations.SerializationReadsBack := by
  intro a b s ho hp
  refine ⟨_, _, _, startActions .sdaThenScl a, byteActions b, stopActions, ho ▸ exec_busStart hp a,
    exec_busWrite rfl b, exec_busStop rfl, trace_afterActions .., trace_afterActions .., trace_afterActions .., ?_,
    dataEdges_byteActions rfl b⟩
  simpa [wireActions, startActions, wire] using busDecode_transactions [[a, b]]

/-- Settles O31: the framing alone is five actions; of the issuable pair the first and the last edge are the framing's,
and those in between are of the byte and of the stop's first action. -/
theorem framingReadsBack : Obligations.FramingReadsBack := by
  refine ⟨fun s ho _ => ?_, rfl, rfl, fun a s ho hp => ?_⟩
  · rw [startCond_eq, busStopBody_eq, ho, afterActions_afterActions]
    exact ⟨trace_afterActions .., afterActions_drives ..⟩
  · refine ⟨_, _, startActions .sdaThenScl a ++ stopActions, ho ▸ exec_busStart hp a, exec_busStop rfl, ?_, rfl,
      dataEdges ⟨.low, .low⟩ (byteActions a) ++ [⟨false, .low⟩], ?_, ?_⟩
    · rw [afterActions_afterActions, trace_afterActions]
    · simp [startActions, startCondActions, stopActions, dataEdges, edgeOf, applyAction]
    · exact List.forall_mem_append.2 ⟨dataEdges_byteActions rfl a, by simp⟩

namespace Machine

/-- R110: a clock rise outside a transaction is ignored. -/
theorem decodeEvents_clks_closed (levels bits : List Bool) (out : List Txn) (rest : List BusEvent) :
    decodeEvents ⟨false, bits, out⟩ (levels.map .clk ++ rest) = decodeEvents ⟨false, bits, out⟩ rest := by
  induction levels with
  | nil => rfl
  | cons b levels ih => exact ih

end Machine

/-- Settles O32: with the clock driven low first, the data line falls unseen; the decoder never opens, and ignores the
clock rises and the stop. -/
theorem otherStartOrderMakesNoTransaction : Obligations.OtherStartOrderMakesNoTransaction := by
  intro a bs
  have hevents : busEvents ⟨.rel, .rel⟩ (wireActions .sclThenSda (a :: bs)) =
      ((a :: bs).flatMap (wireBits true) ++ [false]).map .clk ++ [.stopCond] := by
    rw [← busEvents_bytes_stop (d := ⟨.low, .low⟩) rfl, wireActions, List.append_assoc]
    rfl
  rw [busDecode, decodeTrace, hevents, decoderStart, decodeEvents_clks_closed]
  rfl

namespace Machine

/-! Legal use of the bus (R107, R109): the lists of actions that admitted operations emit, with `START_ORDER` =
`SDA_THEN_SCL`, from one `PHASE` to another. -/

/-- The grammar of R107's table. A display operation is a succession of the three operations of a transaction. -/
inductive LegalUse : Phase → List PinAction → Phase → Prop
  | nothing (p : Phase) : LegalUse p [] p
  | init {p : Phase} (hp : p ≠ .transmitting) : LegalUse p [.sclRel, .sdaRel] .idle
  | start (a : Byte) : LegalUse .idle (startActions .sdaThenScl a) .transmitting
  | write (v : Byte) : LegalUse .transmitting (byteActions v) .transmitting
  | stop : LegalUse .transmitting stopActions .idle
  | append {p q r : Phase} {a b : List PinAction} (ha : LegalUse p a q) (hb : LegalUse q b r) :
      LegalUse p (a ++ b) r

theorem legalUse_bytes (bs : List Byte) : LegalUse .transmitting (bs.flatMap byteActions) .transmitting := by
  induction bs with
  | nil => exact .nothing _
  | cons v rest ih => exact .append (.write v) ih

theorem legalUse_wireActions {bytes : List Byte} (h : bytes ≠ []) :
    LegalUse .idle (wireActions .sdaThenScl bytes) .idle := by
  obtain ⟨a, bs, rfl⟩ := List.exists_cons_of_ne_nil h
  simpa [wireActions, startActions] using (LegalUse.start a).append ((legalUse_bytes bs).append .stop)

theorem legalUse_transactions {ts : List (List Byte)} (h : ∀ b ∈ ts, b ≠ []) :
    LegalUse .idle (ts.flatMap (wireActions .sdaThenScl)) .idle := by
  induction ts with
  | nil => exact .nothing _
  | cons bytes rest ih =>
    obtain ⟨hb, hrest⟩ := List.forall_mem_cons.1 h
    exact .append (legalUse_wireActions hb) (ih hrest)

/-- The drive states between operations (R36), `UNINIT` standing for reset, with the lines released (R35, log 3). -/
def restDrives : Phase → Drives
  | .uninit | .idle => ⟨.rel, .rel⟩
  | .transmitting => ⟨.rel, .low⟩

theorem LegalUse.replay_rest {p q : Phase} {acts : List PinAction} (h : LegalUse p acts q) :
    replay (restDrives p) acts = restDrives q := by
  induction h with
  | nothing | init => rfl
  | start a => exact (replay_append ..).trans (replay_byteActions _ a)
  | write v => exact replay_byteActions _ v
  | stop => rfl
  | append _ _ iha ihb => rw [replay_append, iha, ihb]

/-- What a step adds to `TRACE`, and where it leaves the drivers. -/
def UsesBus (s t : State) : Prop :=
  ∃ acts, t.trace = s.trace ++ acts ∧ LegalUse s.phase acts t.phase ∧
    (s.drives = restDrives s.phase → t.drives = restDrives t.phase)

theorem usesBus_afterActions {s : State} {acts : List PinAction} {sda scl : Drive} {p : Phase}
    (hu : LegalUse s.phase acts p) (hd : ⟨sda, scl⟩ = restDrives p) : UsesBus s (afterActions acts sda scl p s) :=
  ⟨acts, trace_afterActions .., hu, fun _ => hd⟩

theorem usesBus_of_untouched {s t : State} (ht : t.traceRev = s.traceRev) (hp : t.phase = s.phase)
    (hd : t.drives = s.drives) : UsesBus s t :=
  ⟨[], by rw [trace_congr ht, List.append_nil], hp ▸ .nothing _, fun h => by rw [hd, h, hp]⟩

theorem exec_usesBus {i : Instr} {s t : State} (ho : s.cfg.startOrder = .sdaThenScl) (h : exec i s = .next t) :
    UsesBus s t := by
  cases exec_cases h with
  | busInit hp => exact usesBus_afterActions (.init hp) rfl
  | busStart a hp => exact usesBus_afterActions (by rw [ho, hp]; exact .start a) rfl
  | busWrite v hp => exact usesBus_afterActions (by rw [hp]; exact .write v) rfl
  | busStop hp => exact usesBus_afterActions (by rw [hp]; exact .stop) rfl
  | display _ ts hp hts => exact usesBus_afterActions (by rw [ho, hp]; exact legalUse_transactions hts) rfl
  | adcCfgi | adcCfgt | adcSample | acqAvg | linInt | linTc => exact usesBus_of_untouched rfl rfl rfl

theorem step_usesBus {s t : State} (ho : s.cfg.startOrder = .sdaThenScl) (h : step s = .next t) : UsesBus s t := by
  cases step_frame h with
  | operate i acts _ he => exact exec_usesBus (s := { s with host := acts }) ho he
  | port | wait => exact usesBus_of_untouched rfl rfl rfl

/-! The framing of what legal use emits (R109 (b), (c)). -/

/-- The framing that goes with `PHASE`: in `TRANSMITTING`, a whole number of bytes, at least one. -/
def Framed : Phase → Framing → Prop
  | .uninit, f | .idle, f => f = .closed
  | .transmitting, f => ∃ k, 1 ≤ k ∧ f = .opened (9 * k)

theorem frameEvents_clks (n : Nat) (levels : List Bool) :
    frameEvents (.opened n) (levels.map .clk) = some (.opened (n + levels.length)) := by
  induction levels generalizing n with
  | nil => rfl
  | cons b rest ih => rw [List.length_cons, Nat.add_comm rest.length, ← Nat.add_assoc]; exact ih (n + 1)

theorem frameEvents_byteActions {d : Drives} (h : d.scl = .low) (n : Nat) (v : Byte) :
    frameEvents (.opened n) (busEvents d (byteActions v)) = some (.opened (n + 9)) := by
  rw [busEvents_byteActions h, frameEvents_clks, length_wireBits]

/-- Legal use takes the scan from the framing of one `PHASE` to that of the other. -/
theorem LegalUse.framed {p q : Phase} {acts : List PinAction} (h : LegalUse p acts q) {f : Framing}
    (hf : Framed p f) : ∃ f', frameEvents f (busEvents (restDrives p) acts) = some f' ∧ Framed q f' := by
  induction h generalizing f with
  | nothing => exact ⟨f, rfl, hf⟩
  | @init p hp =>
    cases p with
    | transmitting => exact absurd rfl hp
    | uninit | idle => exact ⟨f, rfl, hf⟩
  | start a =>
    obtain rfl : f = .closed := hf
    exact ⟨.opened 9, frameEvents_byteActions (d := ⟨.low, .low⟩) rfl 0 a, 1, le_rfl, rfl⟩
  | write v =>
    obtain ⟨k, hk, rfl⟩ := hf
    exact ⟨_, frameEvents_byteActions rfl (9 * k) v, k + 1, by omega, rfl⟩
  | stop =>
    obtain ⟨k, hk, rfl⟩ := hf
    have hclose : (9 * k + 1) % 9 = 1 ∧ 10 ≤ 9 * k + 1 := by omega
    exact ⟨.closed, by rw [busEvents_stopActions rfl]; simp [frameEvents, frameEvent, hclose], rfl⟩
  | append ha _ iha ihb =>
    obtain ⟨f₁, h₁, hf₁⟩ := iha hf
    obtain ⟨f₂, h₂, hf₂⟩ := ihb hf₁
    exact ⟨f₂, by rw [busEvents_append, frameEvents_append, h₁, ha.replay_rest]; exact h₂, hf₂⟩

/-- R109 and R36 together, by `PHASE` alone: in every phase the drivers rest where the phase has them. -/
theorem legalBus_iff (s : State) :
    LegalBus s ↔ s.cfg.startOrder = .sdaThenScl ∧ s.drives = restDrives s.phase ∧
      replay ⟨.rel, .rel⟩ s.trace = s.drives ∧
      ∃ f, frameEvents .closed (busEvents ⟨.rel, .rel⟩ s.trace) = some f ∧ Framed s.phase f := by
  unfold LegalBus PhaseDrives FramingOf
  cases s.phase with
  | uninit => simp only [restDrives, Framed]; tauto
  | idle | transmitting => rfl

/-! What the decoder makes of it (R110). -/

/-- Where the decoder stands in a `PHASE`: a transaction is open exactly in `TRANSMITTING`, and then its bits so far
are whole groups of nine. -/
def DecodedTo (p : Phase) (d : DecoderState) : Prop :=
  d.isOpen = decide (p = .transmitting) ∧ (d.isOpen = true → d.bits.length % 9 = 0)

theorem decodeEvents_byteActions {d : Drives} (h : d.scl = .low) (v : Byte) (bits : List Bool) (out : List Txn) :
    decodeEvents ⟨true, bits, out⟩ (busEvents d (byteActions v)) = .ok ⟨true, bits ++ wireBits true v, out⟩ := by
  rw [busEvents_byteActions h, ← List.append_nil (List.map _ _), decodeEvents_clks]
  rfl

/-- A transaction of whole groups of nine bits closes, whatever they are. -/
theorem exists_closeTxn {bits : List Bool} (h : bits.length % 9 = 0) : ∃ t, closeTxn (bits ++ [false]) = .ok t := by
  simp [closeTxn, h]

/-- From where it stands in one `PHASE`, the decoder does not fail on legal use. -/
theorem LegalUse.decodes {p q : Phase} {acts : List PinAction} (h : LegalUse p acts q) {d : DecoderState}
    (hd : DecodedTo p d) : ∃ d', decodeEvents d (busEvents (restDrives p) acts) = .ok d' ∧ DecodedTo q d' := by
  induction h generalizing d with
  | nothing => exact ⟨d, rfl, hd⟩
  | @init p hp =>
    cases p with
    | transmitting => exact absurd rfl hp
    | uninit | idle => exact ⟨d, rfl, hd⟩
  | start a =>
    obtain ⟨_, bits, out⟩ := d
    obtain rfl := hd.1
    exact ⟨_, decodeEvents_byteActions (d := ⟨.low, .low⟩) rfl a [] out, rfl, fun _ => by simp⟩
  | write v =>
    obtain ⟨_, bits, out⟩ := d
    obtain ⟨rfl, hbits⟩ := hd
    have hlen : bits.length % 9 = 0 := hbits rfl
    exact ⟨_, decodeEvents_byteActions rfl v bits out, rfl, fun _ => by simp [hlen]⟩
  | stop =>
    obtain ⟨_, bits, out⟩ := d
    obtain ⟨rfl, hbits⟩ := hd
    obtain ⟨t, ht⟩ := exists_closeTxn (hbits rfl)
    exact ⟨⟨false, bits ++ [false], out ++ [t]⟩,
      by rw [busEvents_stopActions rfl]; simp [decodeEvents, decodeEvent, ht], rfl, nofun⟩
  | append ha _ iha ihb =>
    obtain ⟨d₁, h₁, hd₁⟩ := iha hd
    obtain ⟨d₂, h₂, hd₂⟩ := ihb hd₁
    exact ⟨d₂, by rw [busEvents_append, decodeEvents_append, h₁, ha.replay_rest]; exact h₂, hd₂⟩

end Machine

/-- Settles O15: a step adds legal use to `TRACE`, and legal use goes on where the trace so far has left the lines and
the scan. -/
theorem stepKeepsLegalFraming : Obligations.StepKeepsLegalFraming := by
  intro s t hs h
  obtain ⟨ho, hrest, hreplay, f, hframe, hf⟩ := (legalBus_iff s).1 hs
  obtain ⟨acts, htrace, huse, hdrives⟩ := step_usesBus ho h
  obtain ⟨f', hframe', hf'⟩ := huse.framed hf
  refine (legalBus_iff t).2 ⟨?_, hdrives hrest, ?_, f', ?_, hf'⟩
  · rw [(historiesGrowConfigStays s t h).1, ho]
  · rw [htrace, replay_append, hreplay, hrest, huse.replay_rest, hdrives hrest]
  · rw [htrace, busEvents_append, frameEvents_append, hframe, hreplay, hrest]
    exact hframe'

/-- Settles O16: the decoder goes on from where it stands in the `PHASE` of `s`, over the legal use a step adds. -/
theorem stepKeepsTraceDecodable : Obligations.StepKeepsTraceDecodable := by
  intro s t hs hd h
  obtain ⟨ho, hrest, hreplay, -⟩ := (legalBus_iff s).1 hs
  obtain ⟨acts, htrace, huse, -⟩ := step_usesBus ho h
  obtain ⟨d, hdecode, hstand⟩ := hd
  obtain ⟨d', hdecode', hstand'⟩ := huse.decodes hstand
  refine ⟨d', ?_, hstand'⟩
  rw [decodeTrace] at hdecode ⊢
  rw [htrace, busEvents_append, decodeEvents_append, hdecode, hreplay, hrest]
  exact hdecode'

end Sys2Proof
end

section
/-! SUPPORT. Family 41_display.md: the operations of the Display Driver as transactions (41_display.md rules R121 to
R126), the glyphs of a value (R127), and what DSP.CLEAR and DSP.INT do to the picture of the reference display
(20_memory.md rule R60). -/

namespace Sys2Proof

open Machine

namespace Machine

/-! The operations where they are admitted (R120 to R125). -/

section
variable {s : State} (hp : s.phase = .idle)
include hp

theorem exec_dspInit :
    exec .dspInit s = .next (afterActions
      (wireActions s.cfg.startOrder (txnBytes s.cfg ctrlCmd s.cfg.initSeq)) .rel .rel .idle s) := by
  simp [exec, execDspInit, idlePhase, hp, txn_eq]

theorem exec_dspClear :
    exec .dspClear s = .next (afterActions
      ((clearTxns s.cfg).flatMap (wireActions s.cfg.startOrder)) .rel .rel .idle s) := by
  simp [exec, execDspClear, idlePhase, hp, clear_eq]

theorem exec_dspGlyph_refused {idx : BitVec 4} (hi : 13 < idx.toNat) :
    exec (.dspGlyph idx) s = .refused .glyphIndex := by
  simp [exec, execDspGlyph, idlePhase, hp, hi]

end

/-! The cursor bytes (R77). -/

theorem byte_low_nibble (b : Byte) : b &&& 0x0F = BitVec.ofNat 8 (b.toNat % 16) := by revert b; decide

theorem byte_high_nibble (b : Byte) : b >>> 4 = BitVec.ofNat 8 (b.toNat / 16) := by revert b; decide

/-- R77: the cursor bytes by the two nibbles of the column. -/
theorem cursorBytes_eq (c : Config) (column : Byte) (page : BitVec 4) :
    cursorBytes c column page =
      [BitVec.ofNat 8 (column.toNat % 16), c.colHiBase ||| BitVec.ofNat 8 (column.toNat / 16),
        c.pageBase ||| BitVec.ofNat 8 page.toNat] := by
  rw [cursorBytes, byte_low_nibble, byte_high_nibble, BitVec.ofNat_toNat]

end Machine

/-- Settles O34: the body of DSP.INIT is one `TXN`. -/
theorem displayInitSendsSequence : Obligations.DisplayInitSendsSequence := fun _ hp => exec_dspInit hp

/-- Settles O35: the nibbles of the 8-bit working column are those of the 7-bit operand. -/
theorem displayCursorSendsThreeCommands : Obligations.DisplayCursorSendsThreeCommands := by
  intro column page s hp
  have hwide : (column.setWidth 8).toNat = column.toNat := BitVec.toNat_setWidth_of_le (by decide)
  rw [exec_dspCursor hp, cursorTxn, cursorBytes_eq, hwide]
  rfl

/-- Settles O36: the row of a well-formed table has its six bytes. -/
theorem displayGlyphSendsSixBytes : Obligations.DisplayGlyphSendsSixBytes := by
  intro idx s hwf hp
  refine ⟨fun hi => ?_, exec_dspGlyph_refused hp⟩
  obtain ⟨g, hg, hlen⟩ := Config.wf_glyph hwf (idx := idx.toNat) (by omega)
  have hrow : glyphRow s.cfg idx.toNat = g := by rw [glyphRow, hg, Option.getD_some]
  exact ⟨g, hg, hlen, hrow ▸ exec_dspGlyph hwf hp hi⟩

/-- Settles O59: the two loops of DSP.CLEAR, closed. -/
theorem clearEmitsItsTransactions : Obligations.ClearEmitsItsTransactions :=
  fun _ hp => ⟨exec_dspClear hp, rfl⟩

namespace Machine

/-! The grid of DSP.CLEAR as one list of cells, numbered by their addresses `128·page + column` (R59, R124). -/

/-- Two nested loops over ranges as one loop. -/
theorem flatMap_range_flatMap_range {α : Type} (m n : Nat) (f : Nat → Nat → List α) :
    ((List.range m).flatMap fun a => (List.range n).flatMap (f a)) =
      (List.range (m * n)).flatMap fun i => f (i / n) (i % n) := by
  induction m with
  | zero => simp
  | succ m ih =>
    have hlast : ∀ b ∈ List.range n, f ((m * n + b) / n) ((m * n + b) % n) = f m b := by
      intro b hb
      have hb : b < n := List.mem_range.1 hb
      rw [Nat.mul_comm m, Nat.mul_add_div (by omega), Nat.mul_add_mod, Nat.div_eq_of_lt hb, Nat.mod_eq_of_lt hb,
        Nat.add_zero]
    rw [List.range_succ, List.flatMap_append, ih, Nat.succ_mul, List.range_add, List.flatMap_append, List.flatMap_map,
      List.flatMap_congr hlast, List.flatMap_singleton]

/-- The cursor transaction of the cell at an address. -/
def cellCursor (c : Config) (addr : Nat) : List Byte :=
  cursorTxn c ((BitVec.ofNat 7 addr).setWidth 8) (BitVec.ofNat 4 (addr / 128))

/-- The two transactions of DSP.CLEAR for the cell at an address. -/
def cellTxns (c : Config) (addr : Nat) : List (List Byte) := [cellCursor c addr, txnBytes c ctrlData [0x00]]

theorem clearTxns_eq (c : Config) : clearTxns c = (List.range 2048).flatMap (cellTxns c) := by
  have hcolumn (addr : Nat) : BitVec.ofNat 8 (addr % 128) = (BitVec.ofNat 7 addr).setWidth 8 := by
    rw [← BitVec.ofNat_toNat, BitVec.toNat_ofNat]
  simp only [clearTxns, flatMap_range_flatMap_range, nPages, nCols, hcolumn]
  rfl

/-- The entries of a list of pairs laid out flat. -/
theorem getElem?_flatMap_pair {α β : Type} (f g : α → β) (l : List α) (i : Nat) :
    (l.flatMap fun x => [f x, g x])[2 * i]? = l[i]?.map f ∧
      (l.flatMap fun x => [f x, g x])[2 * i + 1]? = l[i]?.map g := by
  induction l generalizing i with
  | nil => simp
  | cons x rest ih =>
    cases i with
    | zero => simp
    | succ i => simpa [Nat.mul_succ] using ih i

theorem getElem?_clearTxns (c : Config) {addr : Nat} (h : addr < 2048) :
    (clearTxns c)[2 * addr]? = some (cellCursor c addr) ∧
      (clearTxns c)[2 * addr + 1]? = some (txnBytes c ctrlData [0x00]) := by
  have hpair := getElem?_flatMap_pair (cellCursor c) (fun _ => txnBytes c ctrlData [0x00]) (List.range 2048) addr
  rw [List.getElem?_range h] at hpair
  rw [clearTxns_eq]
  exact hpair

theorem length_clearTxns (c : Config) : (clearTxns c).length = 4096 := by
  simp [clearTxns, cursorTxn, nPages, nCols]

theorem byte_of_nibbles (b : Byte) : (b >>> 4) <<< 4 ||| (b &&& 0x0F) = b := by revert b; decide

theorem byte_shifted_high_nibble (b : Byte) : b >>> 4 &&& 0xF0 = 0 := by revert b; decide

theorem wide_page_high_nibble (page : BitVec 4) : page.setWidth 8 &&& (0xF0 : Byte) = 0 := by revert page; decide

/-- R77: the cell that a cursor transaction names is read back from its three bytes. -/
theorem cursorTxn_names_cell {c : Config} (hbases : c.basesOk = true) (column : Byte) (page : BitVec 4)
    {x p : Nat} :
    (∃ lo hi pg, some (cursorTxn c column page) = some [c.dispAddrByte, 0x00, lo, hi, pg] ∧
        ((hi &&& 0x0F) <<< 4 ||| lo).toNat = x ∧ (pg &&& 0x0F).toNat = p) ↔
      column.toNat = x ∧ page.toNat = p := by
  obtain ⟨hcol, hpage⟩ := (Config.basesOk_iff c).1 hbases
  have hread : (((c.colHiBase ||| column >>> 4) &&& 0x0F) <<< 4 ||| (column &&& 0x0F)).toNat = column.toNat := by
    rw [(command_nibbles hcol (byte_shifted_high_nibble column)).2, byte_of_nibbles]
  have hreadPage : ((c.pageBase ||| page.setWidth 8) &&& 0x0F).toNat = page.toNat := by
    rw [(command_nibbles hpage (wide_page_high_nibble page)).2, BitVec.toNat_setWidth_of_le (by decide)]
  constructor
  · rintro ⟨lo, hi, pg, h, rfl, rfl⟩
    cases h
    exact ⟨hread.symm, hreadPage.symm⟩
  · rintro ⟨rfl, rfl⟩
    exact ⟨_, _, _, rfl, hread, hreadPage⟩

/-- R124, R132: transaction `2·i` of DSP.CLEAR names the cell at address `i`, and no other. -/
theorem clearTxns_names_cell_iff {c : Config} (hbases : c.basesOk = true) {column page : Nat} (hc : column < 128)
    (hg : page < 16) (i : Nat) :
    (i < 2048 ∧ ∃ lo hi pg, (clearTxns c)[2 * i]? = some [c.dispAddrByte, 0x00, lo, hi, pg] ∧
        ((hi &&& 0x0F) <<< 4 ||| lo).toNat = column ∧ (pg &&& 0x0F).toNat = page) ↔
      i = 128 * page + column :=
  calc
    _ ↔ i < 2048 ∧ i % 128 = column ∧ i / 128 % 16 = page := by
      refine and_congr_right fun hi => ?_
      rw [(getElem?_clearTxns c hi).1, cellCursor, cursorTxn_names_cell hbases,
        BitVec.toNat_setWidth_of_le (by decide), BitVec.toNat_ofNat, BitVec.toNat_ofNat]
    _ ↔ i = 128 * page + column := by omega

end Machine

/-- Settles O37: transaction `2·i` sets the cursor to the cell at address `i`, and a cell has one address. -/
theorem clearCoversTheGridOnce : Obligations.ClearCoversTheGridOnce := by
  intro s hwf ho hp
  obtain ⟨hbases, -⟩ := Config.wf_parts hwf
  refine ⟨_, clearTxns s.cfg, exec_dspClear hp, ho ▸ busDecode_transactions _, length_clearTxns _,
    fun i hi => ?_, fun column page hc hg => ?_⟩
  · obtain ⟨hcursor, hdata⟩ := getElem?_clearTxns s.cfg hi
    exact ⟨hdata, _, _, _, hcursor⟩
  · simp only [clearTxns_names_cell_iff hbases hc hg, existsUnique_eq]

namespace Machine

/-! The digits and glyphs of a value (R126, R127). -/

theorem decDigit_lt (v k : Nat) : decDigit v k < 10 := Nat.mod_lt _ (by decide)

/-- R127: an entry is blank exactly where its digit and those before it are zero; the units place never is. -/
theorem digits_eq (v : Nat) :
    digits v =
      [if decDigit v 3 = 0 then glyphSpace else decDigit v 3,
        if decDigit v 3 = 0 ∧ decDigit v 2 = 0 then glyphSpace else decDigit v 2,
        if decDigit v 3 = 0 ∧ decDigit v 2 = 0 ∧ decDigit v 1 = 0 then glyphSpace else decDigit v 1,
        decDigit v 0] := by
  simp [digits, digitEntry]

/-- The four digits are those of the value below ten thousand. -/
theorem decDigit_sum (v : Nat) :
    decDigit v 3 * 1000 + decDigit v 2 * 100 + decDigit v 1 * 10 + decDigit v 0 = v % 10000 := by
  unfold decDigit
  omega

end Machine

/-- Settles O39, by evaluation. -/
theorem glyphsOfSourceExamples : Obligations.GlyphsOfSourceExamples := ⟨rfl, rfl, rfl⟩

/-- Settles O40: by which is the first digit that is not zero. -/
theorem digitsShowValueModuloTenThousand : Obligations.DigitsShowValueModuloTenThousand := by
  intro v
  have hsum := decDigit_sum v
  have h3 := decDigit_lt v 3
  have h2 := decDigit_lt v 2
  have h1 := decDigit_lt v 1
  have h0 := decDigit_lt v 0
  refine ⟨_, _, _, _, digits_eq v, h0, ?_⟩
  simp only [List.forall_mem_cons, List.not_mem_nil, false_imp_iff, implies_true, and_true, glyphSpace]
  by_cases hz3 : decDigit v 3 = 0
  · by_cases hz2 : decDigit v 2 = 0
    · by_cases hz1 : decDigit v 1 = 0
      · rw [if_pos hz3, if_pos ⟨hz3, hz2⟩, if_pos ⟨hz3, hz2, hz1⟩]; omega
      · rw [if_pos hz3, if_pos ⟨hz3, hz2⟩, if_neg (by tauto)]; omega
    · rw [if_pos hz3, if_neg (by tauto), if_neg (by tauto)]; omega
  · rw [if_neg hz3, if_neg (by tauto), if_neg (by tauto)]; omega

namespace Machine

/-- The glyphs that the digit loop of DSP.INT puts, place by place (R126). -/
def placeGlyphs (v : Nat) : List Nat → Bool → List Nat
  | [], _ => []
  | p :: rest, lead => placeGlyph p lead (v / p % 10) :: placeGlyphs v rest (leadAfter p lead (v / p % 10))

/-! The blanking test and `LEAD` of a place that is not the units (R126). -/

section
variable {p : Nat} (hp : p ≠ 1) (lead : Bool) (dg : Nat)
include hp

theorem placeGlyph_of_ne_one : placeGlyph p lead dg = if lead = true ∧ dg = 0 then glyphSpace else dg := by
  simp [placeGlyph, blanks, hp]

theorem leadAfter_of_ne_one : leadAfter p lead dg = (lead && decide (dg = 0)) := by
  cases lead <;> simp [leadAfter, blanks, hp]

end

/-- R127: the digit loop of DSP.INT computes `Digits(v)`. -/
theorem placeGlyphs_places (v : Nat) : placeGlyphs v places true = digits v := by
  have hloop : placeGlyphs v places true =
      let lead2 := leadAfter 1000 true (decDigit v 3)
      let lead1 := leadAfter 100 lead2 (decDigit v 2)
      [placeGlyph 1000 true (decDigit v 3), placeGlyph 100 lead2 (decDigit v 2), placeGlyph 10 lead1 (decDigit v 1),
        decDigit v 0] := rfl
  rw [hloop, digits_eq]
  simp [placeGlyph_of_ne_one, leadAfter_of_ne_one, and_assoc]

/-! Every glyph put is in the glyph table. -/

theorem placeGlyph_le (p v : Nat) (lead : Bool) : placeGlyph p lead (v / p % 10) ≤ 13 := by
  unfold placeGlyph glyphSpace
  split <;> omega

theorem digitEntry_le (v k : Nat) : digitEntry v k ≤ 13 := by
  have hdigit := decDigit_lt v k
  unfold digitEntry glyphSpace
  split <;> omega

theorem mem_glyphs_le (v : Half) : ∀ g ∈ glyphs v, g ≤ 13 := by
  unfold glyphs digits
  split <;> simp [digitEntry_le, glyphMinus, glyphDegree, glyphLetterC]

/-! DSP.INT as a field of glyphs (R126, R128). -/

/-- What sending a list of glyphs from a column on answers. -/
def fieldSent (page : BitVec 4) (cc : Byte) (gs : List Nat) (s : State) : Result :=
  .next (afterActions ((fieldTxns s.cfg page cc gs).flatMap (wireActions s.cfg.startOrder)) .rel .rel .idle s)

section
variable {s : State} (hwf : s.cfg.wf = true) (page : BitVec 4)
include hwf

/-- `PUT(g)` (R126). -/
theorem putGlyph_eq {g : Nat} (hg : g ≤ 13) (cc : Byte) : putGlyph g page cc s = fieldSent page cc [g] s := by
  have hrow := (glyphRow_of_wf hwf hg).1
  simp [putGlyph, cursorBody_eq, glyphBody_eq, hrow, fieldSent, fieldTxns, glyphTxn]

/-- `PUT(g)`, then the glyphs after it from the next column on. -/
theorem thenDo_putGlyph {g : Nat} (hg : g ≤ 13) (cc : Byte) {gs : List Nat} {f : State → Result}
    (hf : ∀ t : State, t.cfg = s.cfg → f t = fieldSent page (advance cc) gs t) :
    thenDo (putGlyph g page cc s) f = fieldSent page cc (g :: gs) s := by
  rw [putGlyph_eq hwf page hg, fieldSent, thenDo_next]
  refine (hf _ (afterActions_cfg ..)).trans ?_
  simp [fieldSent, fieldTxns, advance]

end

theorem putPlaces_eq (page : BitVec 4) (v : Nat) (ps : List Nat) (lead : Bool) (cc : Byte) {s : State}
    (hwf : s.cfg.wf = true) :
    putPlaces page v ps lead cc s = fieldSent page cc (placeGlyphs v ps lead ++ [glyphDegree, glyphLetterC]) s := by
  induction ps generalizing lead cc s with
  | nil =>
    exact thenDo_putGlyph hwf page (by decide) cc fun t ht => putGlyph_eq (ht ▸ hwf) page (by decide) _
  | cons p rest ih => exact thenDo_putGlyph hwf page (placeGlyph_le p v lead) cc fun t ht => ih _ _ (ht ▸ hwf)

theorem intBody_eq (v : Half) (column : BitVec 7) (page : BitVec 4) {s : State} (hwf : s.cfg.wf = true) :
    intBody v column page s = fieldSent page (column.setWidth 8) (glyphs v) s := by
  unfold intBody glyphs
  split
  · refine thenDo_putGlyph hwf page (by decide) _ fun t ht => ?_
    rw [putPlaces_eq page _ _ _ _ (ht ▸ hwf), placeGlyphs_places]
    rfl
  · rw [putPlaces_eq page _ _ _ _ hwf, placeGlyphs_places]
    rfl

/-- R126, R129: DSP.INT, where it is admitted. -/
theorem exec_dspInt {s : State} {v : Half} {column : BitVec 7} (hwf : s.cfg.wf = true) (hp : s.phase = .idle)
    (hv : v.toInt ≠ -32768) (hlast : column.toNat + 6 * ((if v.toInt < 0 then 7 else 6) - 1) ≤ 127)
    (page : BitVec 4) :
    exec (.dspInt v column page) s = fieldSent page (column.setWidth 8) (glyphs v) s := by
  have hv' : signedValue v ≠ -32768 := hv
  have hlast' : lastAnchor v column ≤ 127 := hlast
  simp [exec, execDspInt, idlePhase, hp, hv', hlast', intBody_eq v column page hwf]

theorem length_fieldTxns (c : Config) (page : BitVec 4) (cc : Byte) (gs : List Nat) :
    (fieldTxns c page cc gs).length = 2 * gs.length := by
  induction gs generalizing cc with
  | nil => rfl
  | cons g rest ih => simp only [fieldTxns, List.length_cons, ih]; omega

theorem length_glyphs (v : Half) : (glyphs v).length = if v.toInt < 0 then 7 else 6 := by
  unfold glyphs signedValue
  split <;> rfl

end Machine

/-- Settles O38: the digit loop puts the glyphs of `Glyphs(value)` one after another, each a cursor and its row. -/
theorem integerRendersItsGlyphs : Obligations.IntegerRendersItsGlyphs := by
  intro v column page s hwf hp hv hlast
  refine ⟨exec_dspInt hwf hp hv hlast page, ?_⟩
  rw [length_fieldTxns, length_glyphs]
  split <;> rfl

namespace Machine

/-! RENDER (R131, R82). -/

/-- A run is its first step, then the rest. -/
theorem core_run_succ (k : Nat) (s : State) :
    Sys2Proof.core.run (k + 1) s = thenDo (step s) (Sys2Proof.core.run k) := by
  refine (Host.Core.run.eq_2 Sys2Proof.core s k).trans ?_
  show _ = thenDo (Sys2Proof.core.step s) _
  cases Sys2Proof.core.step s <;> rfl

theorem core_run_two (s : State) : Sys2Proof.core.run 2 s = thenDo (step s) step := by
  have hlast : Sys2Proof.core.run 1 = step := by
    funext t
    refine (core_run_succ 0 t).trans ?_
    cases step t <;> rfl
  exact hlast ▸ core_run_succ 1 s

/-- R82: DSP.INT with a value put into `IMM` is DSP.INT of that value. -/
theorem decode_withImm_dspInt (v w : Half) (a : Anchor) :
    decode (withImm (encode (.dspInt v a.column a.page)) w) = .ok (.dspInt w a.column a.page) := by
  rw [withImm, encode, opField_pack, pgField_pack, colField_pack]
  exact decodeInvertsEncode (.dspInt w a.column a.page)

theorem step_issueRead_dspInt {s : State} {v w : Half} {a : Anchor} {back : Nat} {rest : List HostAct}
    (hwf : s.cfg.wf = true) (hq : s.seq = .idle)
    (hh : s.host = .issueRead (encode (.dspInt v a.column a.page)) back :: rest)
    (hread : s.resReads.reverse[back]? = some w) :
    step s = exec (.dspInt w a.column a.page) { s with host := rest } := by
  have hearlier : earlierRead s back = w := by rw [earlierRead, hread, Option.getD_some]
  rw [step_of_presented hwf hq hh]
  exact hearlier ▸ runWord_of_decode (decode_withImm_dspInt v _ a) _

/-- A display operation changes nothing that the port reads. -/
theorem exec_dspInt_port {s t : State} {v : Half} {column : BitVec 7} {page : BitVec 4}
    (h : exec (.dspInt v column page) s = .next t) :
    t.cfg = s.cfg ∧ t.seq = s.seq ∧ t.host = s.host ∧ t.resReads = s.resReads := by
  cases exec_cases h with
  | display => exact ⟨rfl, rfl, rfl, rfl⟩

end Machine

/-- Settles O54: both words are DSP.INT of a value that the ACQUIRE read, and the first leaves the values read as they
are. -/
theorem renderDrawsBothTemperatures : Obligations.RenderDrawsBothTemperatures := by
  intro s before avgI internalC avgT thermocoupleC rest hwf hq hh hreads
  have hfirst := step_issueRead_dspInt (w := internalC) (rest := (renderAcquired s.cfg).tail ++ rest) hwf hq hh
    (by rw [hreads]; simp)
  rw [core_run_two, hfirst]
  cases hexec : exec (.dspInt internalC s.cfg.posInt.column s.cfg.posInt.page)
      { s with host := (renderAcquired s.cfg).tail ++ rest } with
  | next t =>
    obtain ⟨hcfg, hseq, hhost, hres⟩ := exec_dspInt_port hexec
    exact step_issueRead_dspInt (w := thermocoupleC) (hcfg ▸ hwf) (hseq.trans hq) hhost (by rw [hres, hreads]; simp)
  | refused r => rfl
  | fault r => nomatch r

namespace Machine

/-! The picture after DSP.CLEAR (R60, R124). -/

theorem cellAddr_lt (x : BitVec 7) (p : BitVec 4) : cellAddr x p < 2048 := by
  unfold cellAddr
  omega

/-- The cell at an address of the display RAM is the one that `cellTxns` names. -/
theorem cell_eq_iff_cellAddr {addr : Nat} (h : addr < 2048) (x : BitVec 7) (p : BitVec 4) :
    x = BitVec.ofNat 7 addr ∧ p = BitVec.ofNat 4 (addr / 128) ↔ cellAddr x p = addr := by
  have haddr : cellAddr (BitVec.ofNat 7 addr) (BitVec.ofNat 4 (addr / 128)) = addr := by
    rw [cellAddr, BitVec.toNat_ofNat, BitVec.toNat_ofNat]
    omega
  rw [← cellAddr_inj, haddr]

section
variable {c : Config} (hbases : c.basesOk = true) (hd : CursorCommandsDistinct c)
include hbases hd

/-- Clearing one cell. -/
theorem displayTxns_cell {addr : Nat} (ha : addr < 2048) (rest : List Txn) (d : Display) :
    ∃ d', displayTxns c ((cellTxns c addr).map wire ++ rest) d = displayTxns c rest d' ∧
      ∀ (x : BitVec 7) (p : BitVec 4), d'.pixel x p = if cellAddr x p = addr then some 0 else d.pixel x p := by
  obtain ⟨d', hrun, hpix⟩ := displayTxns_cursor_data hbases hd (BitVec.ofNat 7 addr) (BitVec.ofNat 4 (addr / 128))
    (bs := [0x00]) rest d (Nat.succ_le_of_lt (BitVec.isLt _))
  refine ⟨d', hrun, fun x p => ?_⟩
  rw [hpix, List.length_singleton]
  by_cases hx : cellAddr x p = addr
  · obtain ⟨rfl, rfl⟩ := (cell_eq_iff_cellAddr ha x p).2 hx
    simp [hx]
  · rw [if_neg hx, if_neg]
    rintro ⟨hp, hle, hlt⟩
    exact hx ((cell_eq_iff_cellAddr ha x p).1 ⟨BitVec.eq_of_toNat_eq (by omega), hp⟩)

/-- Clearing a list of cells: each of them is zero after it, and nothing else of the picture changes. -/
theorem displayTxns_cells (addrs : List Nat) (ha : ∀ addr ∈ addrs, addr < 2048) (d : Display) :
    ∃ d', displayTxns c ((addrs.flatMap (cellTxns c)).map wire) d = .ok d' ∧
      ∀ (x : BitVec 7) (p : BitVec 4), d'.pixel x p = if cellAddr x p ∈ addrs then some 0 else d.pixel x p := by
  induction addrs generalizing d with
  | nil => exact ⟨d, rfl, fun x p => by simp⟩
  | cons addr rest ih =>
    obtain ⟨haddr, hrest⟩ := List.forall_mem_cons.1 ha
    obtain ⟨d₁, hrun₁, hpix₁⟩ := displayTxns_cell hbases hd haddr ((rest.flatMap (cellTxns c)).map wire) d
    obtain ⟨d', hrun, hpix⟩ := ih hrest d₁
    refine ⟨d', hrun₁.trans hrun, fun x p => ?_⟩
    rw [hpix, hpix₁]
    by_cases hx : cellAddr x p ∈ rest <;> simp [hx]

end

end Machine

/-- Settles O56: every cell of the picture has its address in the grid. -/
theorem clearBlanksThePicture : Obligations.ClearBlanksThePicture := by
  intro s d hwf ho hp hd
  obtain ⟨hbases, -⟩ := Config.wf_parts hwf
  obtain ⟨d', hrun, hpix⟩ := displayTxns_cells hbases hd (List.range 2048) (fun _ => List.mem_range.1) d
  rw [← clearTxns_eq] at hrun
  refine ⟨_, _, _, d', exec_dspClear hp, trace_afterActions .., ho ▸ busDecode_transactions _, hrun, ?_⟩
  intro x p
  rw [hpix, if_pos (List.mem_range.2 (cellAddr_lt x p))]

namespace Machine

/-! The picture after DSP.INT (R60, R128). -/

/-- The byte of a field of glyphs at so many columns from its start. -/
def fieldByte (c : Config) (gs : List Nat) (k : Nat) : Option Byte :=
  (gs[k / 6]?).bind fun g => (glyphRow c g)[k % 6]?

theorem fieldByte_cons_lt (c : Config) (g : Nat) (gs : List Nat) {k : Nat} (h : k < 6) :
    fieldByte c (g :: gs) k = (glyphRow c g)[k]? := by
  rw [fieldByte, Nat.div_eq_of_lt h, Nat.mod_eq_of_lt h]
  rfl

theorem fieldByte_cons_add (c : Config) (g : Nat) (gs : List Nat) (k : Nat) :
    fieldByte c (g :: gs) (k + 6) = fieldByte c gs k := by
  rw [fieldByte, Nat.add_div_right _ (by decide), Nat.add_mod_right, List.getElem?_cons_succ, fieldByte]

/-- The first glyph of a field and the glyphs after it, column by column. -/
theorem fieldByte_cons_columns (c : Config) (g : Nat) (gs : List Nat) (n x : Nat) (old : Option Byte) :
    (if n + 6 ≤ x ∧ x < n + 6 + 6 * gs.length then fieldByte c gs (x - (n + 6))
      else if n ≤ x ∧ x < n + 6 then (glyphRow c g)[x - n]? else old) =
    if n ≤ x ∧ x < n + 6 * (gs.length + 1) then fieldByte c (g :: gs) (x - n) else old := by
  rcases Nat.lt_or_ge x n with hx | hx
  · rw [if_neg (by omega), if_neg (by omega), if_neg (by omega)]
  rcases Nat.lt_or_ge x (n + 6) with hx' | hx'
  · rw [if_neg (by omega), if_pos (by omega), if_pos (by omega), fieldByte_cons_lt c g gs (by omega)]
  · have hshift : x - n = x - (n + 6) + 6 := by omega
    rw [if_neg (show ¬ (n ≤ x ∧ x < n + 6) by omega), hshift, fieldByte_cons_add]
    exact if_congr (by omega) rfl rfl

/-- A field from column `n` on: its first glyph at `n`, the others from `n + 6` on. -/
theorem fieldTxns_cons_ofNat (c : Config) (page : BitVec 4) {n : Nat} (h : n < 128) (g : Nat) (gs : List Nat) :
    fieldTxns c page (BitVec.ofNat 8 n) (g :: gs) =
      cursorTxn c ((BitVec.ofNat 7 n).setWidth 8) page :: glyphTxn c g ::
        fieldTxns c page (BitVec.ofNat 8 (n + 6)) gs := by
  have hcolumn : (BitVec.ofNat 7 n).setWidth 8 = BitVec.ofNat 8 n := by
    rw [← BitVec.ofNat_toNat, BitVec.toNat_ofNat, Nat.mod_eq_of_lt h]
  rw [hcolumn, BitVec.ofNat_add]
  rfl

section
variable {c : Config} (hwf : c.wf = true) (hd : CursorCommandsDistinct c) (page : BitVec 4)
include hwf hd

/-- The first glyph of a field, where it fits on the page. -/
theorem displayTxns_field_cons {g : Nat} (hg : g ≤ 13) (gs : List Nat) {n : Nat} (hfit : n + 6 ≤ 128) (d : Display) :
    ∃ d', displayTxns c ((fieldTxns c page (BitVec.ofNat 8 n) (g :: gs)).map wire) d =
        displayTxns c ((fieldTxns c page (BitVec.ofNat 8 (n + 6)) gs).map wire) d' ∧
      ∀ (x : BitVec 7) (p : BitVec 4), d'.pixel x p =
        if p = page ∧ n ≤ x.toNat ∧ x.toNat < n + 6 then (glyphRow c g)[x.toNat - n]? else d.pixel x p := by
  obtain ⟨hbases, -⟩ := Config.wf_parts hwf
  have hlen := (glyphRow_of_wf hwf hg).2
  have hn : (BitVec.ofNat 7 n).toNat = n := by rw [BitVec.toNat_ofNat]; omega
  have hpicture := displayTxns_cursor_data hbases hd (BitVec.ofNat 7 n) page (bs := glyphRow c g)
    ((fieldTxns c page (BitVec.ofNat 8 (n + 6)) gs).map wire) d (by omega)
  rw [hn, hlen] at hpicture
  rw [fieldTxns_cons_ofNat c page (by omega)]
  exact hpicture

/-- A field that fits on the page: its bytes stand in its columns, and nothing else of the picture changes. -/
theorem displayTxns_field (gs : List Nat) (hg : ∀ g ∈ gs, g ≤ 13) {n : Nat} (hfit : n + 6 * gs.length ≤ 128)
    (d : Display) :
    ∃ d', displayTxns c ((fieldTxns c page (BitVec.ofNat 8 n) gs).map wire) d = .ok d' ∧
      ∀ (x : BitVec 7) (p : BitVec 4), d'.pixel x p =
        if p = page ∧ n ≤ x.toNat ∧ x.toNat < n + 6 * gs.length then fieldByte c gs (x.toNat - n)
        else d.pixel x p := by
  induction gs generalizing n d with
  | nil => exact ⟨d, rfl, fun x p => by rw [if_neg]; simp⟩
  | cons g rest ih =>
    obtain ⟨hg, hrest⟩ := List.forall_mem_cons.1 hg
    rw [List.length_cons] at hfit ⊢
    obtain ⟨d₁, hrun₁, hpix₁⟩ := displayTxns_field_cons hwf hd page hg rest (n := n) (by omega) d
    obtain ⟨d', hrun, hpix⟩ := ih hrest (n := n + 6) (by omega) d₁
    refine ⟨d', hrun₁.trans hrun, fun x p => ?_⟩
    rw [hpix, hpix₁]
    by_cases hp : p = page
    · simpa [hp] using fieldByte_cons_columns c g rest n x.toNat (d.pixel x page)
    · simp [hp]

/-- A field of which just the last glyph does not fit: the display refuses. -/
theorem displayTxns_field_pastEnd (gs : List Nat) (hg : ∀ g ∈ gs, g ≤ 13) {n : Nat}
    (hlast : n + 6 * (gs.length - 1) ≤ 127) (hlong : 128 < n + 6 * gs.length) (d : Display) :
    displayTxns c ((fieldTxns c page (BitVec.ofNat 8 n) gs).map wire) d = .error .pastLastColumn := by
  induction gs generalizing n d with
  | nil => rw [List.length_nil] at hlast hlong; omega
  | cons g rest ih =>
    obtain ⟨hg, hrest⟩ := List.forall_mem_cons.1 hg
    rw [List.length_cons] at hlast hlong
    by_cases hfit : n + 6 ≤ 128
    · obtain ⟨d₁, hrun₁, -⟩ := displayTxns_field_cons hwf hd page hg rest hfit d
      exact hrun₁.trans (ih hrest (by omega) (by omega) d₁)
    · obtain ⟨hbases, -⟩ := Config.wf_parts hwf
      have hlen := (glyphRow_of_wf hwf hg).2
      have hn : (BitVec.ofNat 7 n).toNat = n := by rw [BitVec.toNat_ofNat]; omega
      rw [fieldTxns_cons_ofNat c page (by omega)]
      exact displayTxns_cursor_data_pastEnd hbases hd (BitVec.ofNat 7 n) page _ d (by omega)

end

end Machine

/-- Settles O57: glyph by glyph along the field; only its last glyph can run past column 127. -/
theorem integerOverwritesItsColumnsOnly : Obligations.IntegerOverwritesItsColumnsOnly := by
  intro s d v column page hwf ho hp hd hv hlast
  have hfield := displayTxns_field hwf hd page (glyphs v) (mem_glyphs_le v) (n := column.toNat)
  have hpast := displayTxns_field_pastEnd hwf hd page (glyphs v) (mem_glyphs_le v) (n := column.toNat)
  rw [length_glyphs, BitVec.ofNat_toNat] at hfield hpast
  exact ⟨_, _, _, exec_dspInt hwf hp hv hlast page, trace_afterActions .., ho ▸ busDecode_transactions _,
    fun hfit => hfield hfit d, fun hlong => hpast hlast hlong d⟩

end Sys2Proof
end

section
/-! SUPPORT. Family 42_pipeline.md: the log of the converter pairs up (42_pipeline.md rules R150, R209), a wait and its
end (R154 to R156, 60_exceptions.md rule R191), the two conversions (R157 to R161), and the pseudo-operation ACQUIRE
(R163). -/

namespace Sys2Proof

open Machine

namespace Machine

/-- R150: what may follow a log that pairs up, but perhaps for a last `START`, is what may follow that `START`. -/
theorem pairedLog_append {unanswered : Bool} {log : List AdcEvent} (h : pairedLog unanswered log = true)
    (unanswered' : Bool) (more : List AdcEvent) :
    pairedLog unanswered' (log ++ more) = pairedLog unanswered' ((if unanswered then [.start] else []) ++ more) := by
  induction log using pairedLog.induct with
  | case1 =>
    obtain rfl : unanswered = false := by simpa [pairedLog] using h
    rfl
  | case2 =>
    obtain rfl : unanswered = true := h
    rfl
  | case3 raw rest ih => exact ih h
  | case4 src rest ih => exact ih h
  | case5 log h₁ h₂ h₃ h₄ => rw [pairedLog.eq_5 _ _ h₁ h₂ h₃ h₄] at h; cases h

/-! One conversion at a time (R150, R154), by whether an operation is running. -/

theorem oneConversion_of_idle {s : State} (hq : s.seq = .idle) :
    OneConversion s ↔ pairedLog false s.adcLog = true := by
  simp [OneConversion, busy, hq]

theorem oneConversion_of_waiting {s : State} (hq : s.seq ≠ .idle) :
    OneConversion s ↔ pairedLog true s.adcLog = true ∧ s.adcSel ≠ none := by
  simp [OneConversion, busy, hq]

/-- An operation logs a configuration, or begins a conversion and waits for it, or leaves the log alone. -/
theorem exec_keeps_oneConversion {i : Instr} {s t : State} (hq : s.seq = .idle) (hs : OneConversion s)
    (h : exec i s = .next t) : OneConversion t := by
  have hlog := (oneConversion_of_idle hq).1 hs
  cases exec_cases h with
  | adcCfgi | adcCfgt => exact (oneConversion_of_idle (by exact hq)).2 (pairedLog_append hlog false _)
  | adcSample hc | acqAvg hc => exact (oneConversion_of_waiting (by simp)).2 ⟨pairedLog_append hlog true _, hc⟩
  | busInit | busStart | busWrite | busStop | display | linInt | linTc => exact hs

/-- The end of a wait logs the `TAKE` of its `START`. -/
theorem pairedLog_takeSample {s : State} (hq : s.seq ≠ .idle) (hs : OneConversion s) :
    pairedLog false (takeSample s).adcLog = true :=
  pairedLog_append ((oneConversion_of_waiting hq).1 hs).1 false _

theorem resumeAvg_keeps_oneConversion {cnt acc : Nat} {s : State} (hq : s.seq ≠ .idle) (hs : OneConversion s) :
    OneConversion (resumeAvg cnt acc s) := by
  have hlog := pairedLog_takeSample hq hs
  obtain ⟨-, h⟩ | ⟨-, h⟩ := resumeAvg_cases cnt acc s <;> rw [h]
  · exact (oneConversion_of_waiting (by simp)).2
      ⟨pairedLog_append hlog true [.start], ((oneConversion_of_waiting hq).1 hs).2⟩
  · exact (oneConversion_of_idle rfl).2 hlog

theorem converterStep_keeps_oneConversion (o : Oracle) {s : State} (hs : OneConversion s) :
    OneConversion (tickOn (converterStep o s)) := by
  obtain h | ⟨_, -, -, h⟩ := converterStep_cases o s <;> rw [h] <;> exact hs

end Machine

/-- Settles O17: a `START` is logged only after a log that pairs up, and the wait it begins ends with its `TAKE`. -/
theorem stepKeepsOneConversion : Obligations.StepKeepsOneConversion := by
  intro s t hs h
  cases (step_cases h).2 with
  | operate _ acts _ i _ hq _ _ _ he => exact exec_keeps_oneConversion (s := { s with host := acts }) hq hs he
  | sampleDone hq => exact (oneConversion_of_idle rfl).2 (pairedLog_takeSample (by simp [hq]) hs)
  | avgDone cnt acc hq => exact resumeAvg_keeps_oneConversion (by simp [hq]) hs
  | converter => exact converterStep_keeps_oneConversion _ hs
  | rest | readRes | hold => exact hs

/-- Settles O42: each configure step is the two writes R151 and R153 name. -/
theorem configureSelectsSource : Obligations.ConfigureSelectsSource := fun _ => ⟨rfl, rfl⟩

namespace Machine

/-! A wait (R155): what its steps do, whichever operation waits. -/

/-- The state in which the operation that waits goes on, by `SEQ` (R154, R156). -/
def resumed (s : State) : State :=
  match s.seq with
  | .idle => s
  | .sampleWait => resumeSample s
  | .avgWait cnt acc => resumeAvg cnt acc s

section
variable (o : Oracle) {s : State} (hwf : s.cfg.wf = true) (hq : s.seq ≠ .idle)
include hwf hq

theorem stepWith_of_waiting : stepWith o s = waitStep o resumed s := by
  cases hseq : s.seq with
  | idle => exact absurd hseq hq
  | sampleWait | avgWait => simp [stepWith, hwf, seqStep, hseq, waitStep, resumed]

theorem stepWith_resumes (hd : s.adcDone = true) : stepWith o s = .next (resumed s) := by
  simp [stepWith_of_waiting o hwf hq, waitStep, hd]

theorem stepWith_converts (hd : s.adcDone = false) (hr : o.ready s.tick = true) :
    stepWith o s = .next (tickOn (converterStep o s)) := by
  simp [stepWith_of_waiting o hwf hq, waitStep, hd, hr]

theorem stepWith_holds (hd : s.adcDone = false) (hr : o.ready s.tick = false) :
    stepWith o s = .next (tickOn s) := by
  simp [stepWith_of_waiting o hwf hq, waitStep, hd, hr]

end

/-! The pipeline is apart from the bus (R162). -/

section
variable (sda scl : Drive) (p : Phase) (tr : List PinAction)

theorem linTcBody_commutes_withBus (avg : Half) : CommutesWith (withBus sda scl p tr) (linTcBody avg) := by
  intro s
  show linTcBody avg (withBus sda scl p tr s) = mapNext _ (linTcBody avg s)
  simp only [linTcBody, show (withBus sda scl p tr s).cfg = s.cfg from rfl]
  split <;> rfl

theorem exec_commutes_withBus {i : Instr} (hi : isPipeline i = true) :
    CommutesWith (withBus sda scl p tr) (exec i) := by
  cases i with
  | adcCfgi | adcCfgt | linInt => exact .next fun _ => rfl
  | adcSample | acqAvg => exact .checkThen (fun _ => rfl) (.next fun _ => rfl)
  | linTc avg => exact .checkThen (fun _ => rfl) (linTcBody_commutes_withBus sda scl p tr avg)
  | busInit | busStart | busWrite | busStop | dspInit | dspCursor | dspClear | dspGlyph | dspInt => cases hi

theorem resumed_withBus (s : State) : resumed (withBus sda scl p tr s) = withBus sda scl p tr (resumed s) := by
  simp only [resumed, show (withBus sda scl p tr s).seq = s.seq from rfl]
  cases s.seq with
  | idle | sampleWait => rfl
  | avgWait cnt acc =>
    show resumeAvg cnt acc (withBus sda scl p tr s) = withBus sda scl p tr (resumeAvg cnt acc s)
    obtain ⟨hlt, h⟩ | ⟨hle, h⟩ := resumeAvg_cases cnt acc s <;> rw [h]
    · exact if_pos hlt
    · exact if_neg (Nat.not_lt.2 hle)

theorem converterStep_withBus (o : Oracle) (s : State) :
    converterStep o (withBus sda scl p tr s) = withBus sda scl p tr (converterStep o s) := by
  simp only [converterStep, show (withBus sda scl p tr s).adcSel = s.adcSel from rfl,
    show startOutstanding (withBus sda scl p tr s) = startOutstanding s from rfl]
  cases s.adcSel with
  | none => rfl
  | some src => cases startOutstanding s <;> rfl

theorem waitStep_commutes_withBus (o : Oracle) : CommutesWith (withBus sda scl p tr) (waitStep o resumed) := by
  intro s
  simp only [waitStep, resumed_withBus, converterStep_withBus, apply_ite (mapNext (withBus sda scl p tr))]
  rfl

/-- A step of a wait reads and writes the pipeline's registers only. -/
theorem stepWith_waiting_withBus (o : Oracle) {s : State} (hq : s.seq ≠ .idle) :
    stepWith o (withBus sda scl p tr s) = mapNext (withBus sda scl p tr) (stepWith o s) := by
  cases hwf : s.cfg.wf with
  | false =>
    have hwf' : (withBus sda scl p tr s).cfg.wf = false := hwf
    rw [stepWith_of_not_wf o hwf, stepWith_of_not_wf o hwf']
    rfl
  | true =>
    have hstep : stepWith o (withBus sda scl p tr s) = waitStep o resumed (withBus sda scl p tr s) :=
      stepWith_of_waiting o hwf hq
    rw [hstep, stepWith_of_waiting o hwf hq]
    exact waitStep_commutes_withBus sda scl p tr o s

end

end Machine

/-- Settles O23: operation by operation, and for a wait by the ways its step goes. -/
theorem pipelineIsApartFromBus : Obligations.PipelineIsApartFromBus := fun sda scl p tr s =>
  ⟨fun _ hi => exec_commutes_withBus sda scl p tr hi s, stepWith_waiting_withBus sda scl p tr Oracle.free⟩

namespace Machine

/-! A `START` and its answer (R154, R191). -/

/-- An operation that has logged a `START` for the selected source and waits for its answer (R155). -/
structure AwaitsAnswer (src : Source) (s : State) : Prop where
  wf : s.cfg.wf = true
  waits : s.seq ≠ .idle
  sel : s.adcSel = some src
  unanswered : s.adcDone = false
  started : s.adcLog.getLast? = some .start

/-- The converter agent answers, with its own sample of the source. -/
theorem AwaitsAnswer.converterStep_eq {src : Source} {s : State} (h : AwaitsAnswer src s) (o : Oracle) :
    converterStep o s = answerWith (o.draw src s.tick) s := by
  simp [converterStep, startOutstanding, h.sel, h.started, h.unanswered]

/-- The step in which the converter agent acts. -/
theorem AwaitsAnswer.stepWith_ready {o : Oracle} {src : Source} {s : State} (h : AwaitsAnswer src s)
    (hr : o.ready s.tick = true) : stepWith o s = .next (tickOn (answerWith (o.draw src s.tick) s)) := by
  rw [stepWith_converts o h.wf h.waits h.unanswered hr, h.converterStep_eq]

/-- The state after a `START`, with the operation in the wait `q` (R154). -/
def started (q : Seq) (s : State) : State := setSeq q (startConversion s)

@[simp] theorem started_cfg (q : Seq) (s : State) : (started q s).cfg = s.cfg := rfl

theorem awaitsAnswer_started {src : Source} {q : Seq} {s : State} (hwf : s.cfg.wf = true)
    (hsel : s.adcSel = some src) (hq : q ≠ .idle) : AwaitsAnswer src (started q s) :=
  ⟨hwf, hq, hsel, rfl, List.getLast?_concat⟩

section
variable {s : State} (hc : s.adcSel ≠ none)
include hc

theorem exec_adcSample : exec .adcSample s = .next (started .sampleWait s) := by
  simp [exec, execAdcSample, configured, hc, started]

theorem exec_acqAvg : exec .acqAvg s = .next (started (.avgWait 1 0) s) := by
  simp [exec, execAcqAvg, configured, hc, started]

end

theorem exec_refused_of_unconfigured {i : Instr} {s : State} (hi : i = .adcSample ∨ i = .acqAvg)
    (hc : s.adcSel = none) : exec i s = .refused .adcUnconfigured := by
  obtain rfl | rfl := hi <;> simp [exec, execAdcSample, execAcqAvg, configured, hc]

/-- The effects of one whole sample (R154) but for `SEQ`: `START`, the answer `raw`, `TAKE`. -/
def sampled (raw : Sample) (s : State) : State := takeSample (answerWith raw (startConversion s))

theorem sampled_eq (raw : Sample) (s : State) :
    sampled raw s = { s with
      adcDone := false, adcData := raw, adcLog := s.adcLog ++ [.start, .take raw], res := raw.setWidth 16,
      resWritten := true } := by
  simp [sampled, takeSample, startConversion, answerWith, setAdcDone, adcEvent, writeRes]

@[simp] theorem sampled_cfg (raw : Sample) (s : State) : (sampled raw s).cfg = s.cfg := by rw [sampled_eq]
@[simp] theorem sampled_adcSel (raw : Sample) (s : State) : (sampled raw s).adcSel = s.adcSel := by rw [sampled_eq]

/-- The end of a sample begun in `s`, with the wait `q` still in `SEQ`. -/
theorem takeSample_started (q : Seq) (raw : Sample) (s : State) :
    takeSample (answerWith raw (started q s)) = setSeq q (sampled raw s) := rfl

/-- The step of a scripted converter (R152): the answer, and the operation goes on. -/
theorem feedSamples_cons (raw : Sample) (rest : List Sample) {s : State} (hwf : s.cfg.wf = true)
    (hq : s.seq ≠ .idle) : feedSamples (raw :: rest) s = feedSamples rest (resumed (answerWith raw s)) :=
  congrArg (thenDo · (feedSamples rest)) (stepWith_resumes Oracle.free (s := answerWith raw s) hwf hq rfl)

/-! The samples of an average (R156). -/

/-- The effects of the samples of an average that are still to take, `acc` being the sum of those before them. -/
def averaged (acc : Nat) (raws : List Sample) (s : State) : State :=
  { s with
    adcDone := false
    adcData := raws.getLast?.getD s.adcData
    adcLog := s.adcLog ++ raws.flatMap fun raw => [.start, .take raw]
    res := BitVec.ofNat 16 (average s.cfg (acc + (raws.map BitVec.toNat).sum))
    resWritten := true
    seq := .idle }

theorem averaged_cons (acc : Nat) (raw : Sample) (rest : List Sample) (s : State) :
    averaged acc (raw :: rest) s = averaged (acc + raw.toNat) rest (sampled raw s) := by
  simp [averaged, sampled_eq, List.getLast?_cons, Nat.add_assoc]

section
variable {cnt : Nat} {s : State} (acc : Nat) (raw : Sample)

/-- After a sample that is not the last the next one is started. -/
theorem resumed_of_lt (h : cnt < s.cfg.nSamples) :
    resumed (answerWith raw (started (.avgWait cnt acc) s)) =
      started (.avgWait (cnt + 1) (acc + raw.toNat)) (sampled raw s) :=
  if_pos h

/-- After the last sample the average is written. -/
theorem resumed_of_eq (h : cnt = s.cfg.nSamples) :
    resumed (answerWith raw (started (.avgWait cnt acc) s)) = averaged acc [raw] s := by
  obtain ⟨hlt, -⟩ | ⟨-, hlast⟩ := resumeAvg_cases cnt acc (answerWith raw (started (.avgWait cnt acc) s))
  · exact absurd h hlt.ne
  · refine hlast.trans ?_
    simp [takeSample_started, averaged, sampled_eq, setSeq, writeRes]

end

/-- The samples are answered one after another, each `TAKE` but the last followed by the next `START`. -/
theorem feedSamples_avgWait (raws : List Sample) (hne : raws ≠ []) {cnt : Nat} (acc : Nat) {s : State}
    (hwf : s.cfg.wf = true) (hcnt : cnt + raws.length = s.cfg.nSamples + 1) :
    feedSamples raws (started (.avgWait cnt acc) s) = .next (averaged acc raws s) := by
  induction raws generalizing cnt acc s with
  | nil => exact absurd rfl hne
  | cons raw rest ih =>
    rw [List.length_cons] at hcnt
    have hstep := feedSamples_cons (s := started (.avgWait cnt acc) s) raw rest hwf (by simp [started])
    rw [hstep]
    by_cases hrest : rest = []
    · subst hrest
      rw [resumed_of_eq acc raw (by simpa using hcnt)]
      rfl
    · have hlen := List.length_pos_of_ne_nil hrest
      rw [resumed_of_lt acc raw (by omega), averaged_cons]
      exact ih hrest _ (by simpa using hwf) (by rw [sampled_cfg]; omega)

/-- The average that ACQ.AVG leaves of its samples. -/
def mean (c : Config) (raws : List Sample) : Nat := average c (raws.map BitVec.toNat).sum

theorem mean_le {c : Config} {raws : List Sample} (hlen : raws.length = c.nSamples) : mean c raws ≤ 1023 := by
  have hsum := (raws.map BitVec.toNat).sum_le_card_nsmul 1023
    (List.forall_mem_map.2 fun raw _ => Nat.lt_succ_iff.1 raw.isLt)
  rw [List.length_map, hlen, smul_eq_mul] at hsum
  exact Nat.div_le_of_le_mul hsum

end Machine

/-- Settles O45: the wait holds, or the converter agent answers it. -/
theorem waitIsLiftedByConverterOnly : Obligations.WaitIsLiftedByConverterOnly := by
  intro s src hwf hq hd hsel hlog
  exact ⟨stepWith_holds Oracle.free hwf hq hd, (AwaitsAnswer.mk hwf hq hsel hd hlog).stepWith_ready (o := Oracle.free)⟩

/-- Settles O43: once answered, the wait is the one sample of the operation. -/
theorem sampleTakesTheAnswer : Obligations.SampleTakesTheAnswer := by
  refine fun s => ⟨fun hc => ⟨_, exec_adcSample hc, rfl, fun hwf raw => ?_⟩,
    exec_refused_of_unconfigured (.inl rfl)⟩
  refine (feedSamples_cons (s := started .sampleWait s) raw [] hwf nofun).trans ?_
  show Host.Outcome.next (setSeq .idle (sampled raw s)) = _
  rw [sampled_eq]
  rfl

/-- Settles O44: by induction on the samples still to take. -/
theorem averageIsTheFloorOfTheMean : Obligations.AverageIsTheFloorOfTheMean := by
  refine fun s hwf => ⟨fun hc => ⟨_, exec_acqAvg hc, fun raws hlen => ⟨?_, mean_le hlen⟩⟩,
    exec_refused_of_unconfigured (.inr rfl)⟩
  have hne : raws ≠ [] := List.ne_nil_of_length_pos (hlen ▸ Config.wf_samples hwf)
  rw [feedSamples_avgWait raws hne 0 hwf (by omega)]
  simp [averaged, average]

namespace Machine

/-! LIN.INT (R157, R158). -/

/-- R9: on a well-formed configuration the result of LIN.INT is an `s16`. -/
theorem toInt_linCelsius {c : Config} (hwf : c.wf = true) (avg : Sample) :
    (BitVec.ofInt 16 (linCelsius c avg.toNat)).toInt = linCelsius c avg.toNat := by
  obtain ⟨-, -, -, -, -, -, -, hfits⟩ := (Config.wf_iff c).1 hwf
  obtain ⟨-, hlo, hhi⟩ := (Config.linFits_iff c avg.toNat).1 (hfits _ (Nat.lt_succ_iff.1 avg.isLt))
  rw [← linCelsius_eq_tdiv] at hlo hhi
  exact BitVec.toInt_ofInt_eq_self (by decide) hlo (by omega)

/-- R158: the result of LIN.INT never decreases in the average. -/
theorem linCelsius_mono (c : Config) {a b : Nat} (h : a ≤ b) : linCelsius c a ≤ linCelsius c b :=
  truncDiv_mono (linNum_mono c h)

end Machine

/-- Settles O47: the result fits `RES`, so `RES` reads back as R157's quotient. -/
theorem internalConversionTruncates : Obligations.InternalConversionTruncates :=
  fun avg _ hwf => ⟨_, (toInt_linCelsius hwf avg).trans (linCelsius_eq_tdiv ..), rfl⟩

/-- Settles O48: the product grows with the average, and the truncation keeps the order. -/
theorem internalConversionIsMonotone : Obligations.InternalConversionIsMonotone := by
  intro a₁ a₂ s t₁ t₂ hwf hlt h₁ h₂
  cases h₁
  cases h₂
  show (BitVec.ofInt 16 _).toInt ≤ (BitVec.ofInt 16 _).toInt
  rw [toInt_linCelsius hwf, toInt_linCelsius hwf]
  exact linCelsius_mono _ hlt.le

namespace Machine

/-! The arithmetic of LIN.TC (R159). -/

theorem tcBucket_eq (avg : Nat) : tcBucket avg = avg / 512 := Nat.shiftRight_eq_div_pow avg 9

theorem tcExtra_eq (t0 t1 : Half) (avg : Nat) : tcExtra t0 t1 avg = avg % 512 * (t1.toNat - t0.toNat) / 512 := by
  rw [tcExtra, tcProp, tcBucket_eq, Nat.shiftRight_eq_div_pow, ← Nat.mod_eq_sub_div_mul]

/-- The interpolated part stays inside the bucket. -/
theorem tcExtra_le (t0 t1 : Half) (avg : Nat) : tcExtra t0 t1 avg ≤ t1.toNat - t0.toNat := by
  rw [tcExtra_eq]
  exact Nat.div_le_of_le_mul (Nat.mul_le_mul_right _ (Nat.mod_lt avg (by decide)).le)

/-- The result of LIN.TC lies between the results at the two breakpoints of its bucket. -/
theorem tcCelsius_bounds {t0 t1 : Half} (h : t0.toNat ≤ t1.toNat) (bias avg : Nat) :
    (t0.toNat + bias) / 10 ≤ tcCelsius bias t0 t1 avg ∧ tcCelsius bias t0 t1 avg ≤ (t1.toNat + bias) / 10 := by
  have hextra := tcExtra_le t0 t1 avg
  exact ⟨Nat.div_le_div_right (by omega), Nat.div_le_div_right (by omega)⟩

/-- R159: with `ROUND_BIAS` at most 9 the result is at most 6554. -/
theorem tcCelsius_le {t0 t1 : Half} (h : t0.toNat ≤ t1.toNat) {bias : Nat} (hbias : bias ≤ 9) (avg : Nat) :
    tcCelsius bias t0 t1 avg ≤ 6554 := by
  have hupper := (tcCelsius_bounds h bias avg).2
  omega

/-- Inside one bucket the result never decreases. -/
theorem tcCelsius_mono_of_bucket (bias : Nat) (t0 t1 : Half) {a b : Nat} (hbucket : a / 512 = b / 512) (h : a ≤ b) :
    tcCelsius bias t0 t1 a ≤ tcCelsius bias t0 t1 b := by
  have hextra : tcExtra t0 t1 a ≤ tcExtra t0 t1 b := by
    rw [tcExtra_eq, tcExtra_eq]
    exact Nat.div_le_div_right (Nat.mul_le_mul_right _ (by omega))
  exact Nat.div_le_div_right (by omega)

/-! LIN.TC on a well-formed table (R159, R160). -/

/-- The two entries of an average's bucket, and the result between them. -/
structure Interpolates (c : Config) (avg : Nat) (t0 t1 v : Half) : Prop where
  lower : c.tcTable[avg / 512]? = some t0
  upper : c.tcTable[avg / 512 + 1]? = some t1
  value : v.toNat = tcCelsius c.roundBias t0 t1 avg

theorem Interpolates.eq_ofNat {c : Config} {avg : Nat} {t0 t1 v : Half} (h : Interpolates c avg t0 t1 v) :
    v = BitVec.ofNat 16 (tcCelsius c.roundBias t0 t1 avg) := by
  rw [← h.value, BitVec.ofNat_toNat, BitVec.setWidth_eq]

section
variable {c : Config} (hwf : c.wf = true)
include hwf

/-- R9: the table never decreases, however far apart its entries. -/
theorem tcTable_mono {i j : Nat} (hij : i ≤ j) {a b : Half} (ha : c.tcTable[i]? = some a)
    (hb : c.tcTable[j]? = some b) : a.toNat ≤ b.toNat := by
  induction j, hij using Nat.le_induction generalizing b with
  | base => rw [Option.some.inj (ha.symm.trans hb)]
  | succ j hij ih =>
    have hlt := (List.getElem?_eq_some_iff.1 hb).1
    have hprev : c.tcTable[j]? = some (c.tcTable[j]'(by omega)) := List.getElem?_eq_getElem _
    exact (ih hprev).trans (Config.wf_table hwf hprev hb)

theorem Interpolates.le {avg : Nat} {t0 t1 v : Half} (h : Interpolates c avg t0 t1 v) : t0.toNat ≤ t1.toNat :=
  Config.wf_table hwf h.lower h.upper

theorem Interpolates.value_le {avg : Nat} {t0 t1 v : Half} (h : Interpolates c avg t0 t1 v) : v.toNat ≤ 6554 := by
  rw [h.value]
  exact tcCelsius_le (h.le hwf) (Config.wf_bias hwf) avg

/-- R159: as a signed value too, `RES` is the result. -/
theorem Interpolates.toInt_eq {avg : Nat} {t0 t1 v : Half} (h : Interpolates c avg t0 t1 v) :
    v.toInt = tcCelsius c.roundBias t0 t1 avg := by
  have hle := h.value_le hwf
  rw [BitVec.toInt_eq_toNat_of_lt (by omega), h.value]

/-- LIN.TC, where it is admitted (R160). -/
theorem exec_linTc {avg : Half} (hb : avg.toNat / 512 < c.nBuckets) :
    ∃ t0 t1 v, Interpolates c avg.toNat t0 t1 v ∧
      ∀ s : State, s.cfg = c → exec (.linTc avg) s = .next (writeRes v s) := by
  obtain ⟨t0, h0, hread0⟩ := memRead_tcRom_of_wf hwf (addr := avg.toNat / 512) hb.le
  obtain ⟨t1, h1, hread1⟩ := memRead_tcRom_of_wf hwf (addr := avg.toNat / 512 + 1) hb
  have hle := tcCelsius_le (Config.wf_table hwf h0 h1) (Config.wf_bias hwf) avg.toNat
  refine ⟨t0, t1, BitVec.ofNat 16 (tcCelsius c.roundBias t0 t1 avg.toNat),
    ⟨h0, h1, by rw [BitVec.toNat_ofNat]; omega⟩, fun s hc => ?_⟩
  subst hc
  simp [exec, execLinTc, linTcBody, tcBucket_eq, hb, hread0, hread1]

end

theorem exec_linTc_refused {s : State} {avg : Half} (hb : s.cfg.nBuckets ≤ avg.toNat / 512) :
    exec (.linTc avg) s = .refused .bucketRange := by
  simp [exec, execLinTc, tcBucket_eq, hb]

theorem interpolates_of_exec_linTc {s t : State} {avg : Half} (hwf : s.cfg.wf = true)
    (h : exec (.linTc avg) s = .next t) : ∃ t0 t1, Interpolates s.cfg avg.toNat t0 t1 t.res := by
  rcases Nat.lt_or_ge (avg.toNat / 512) s.cfg.nBuckets with hb | hb
  · obtain ⟨t0, t1, v, hv, hexec⟩ := exec_linTc hwf hb
    cases (hexec s rfl).symm.trans h
    exact ⟨t0, t1, hv⟩
  · exact nomatch (exec_linTc_refused hb).symm.trans h

/-- R159 with the exact difference of the two entries, as integers. -/
theorem tcCelsius_cast {t0 t1 : Half} (h : t0.toNat ≤ t1.toNat) (bias avg : Nat) :
    (tcCelsius bias t0 t1 avg : Int) =
      ((t0.toNat : Int) + (avg % 512 : Nat) * ((t1.toNat : Int) - t0.toNat) / 512 + bias) / 10 := by
  rw [tcCelsius, tcExtra_eq]
  push_cast [Nat.cast_sub h]
  rfl

end Machine

/-- Settles O49: the two reads of the table, and the bounds of the interpolation. -/
theorem thermocoupleConversionInterpolates : Obligations.ThermocoupleConversionInterpolates := by
  refine fun avg s hwf => ⟨fun hb => ?_, exec_linTc_refused⟩
  obtain ⟨t0, t1, v, hv, hexec⟩ := exec_linTc hwf hb
  have hint := hv.toInt_eq hwf
  have hle := tcCelsius_le (hv.le hwf) (Config.wf_bias hwf) avg.toNat
  exact ⟨t0, t1, v, hv.lower, hv.upper, hint.trans (tcCelsius_cast (hv.le hwf) _ _), by omega, by omega, hexec s rfl⟩

/-- Settles O50: on a boundary `PROP` is zero, and so is `EXTRA`. -/
theorem breakpointBoundaryHasNoExtra : Obligations.BreakpointBoundaryHasNoExtra := by
  intro i avg s hwf hi havg
  have hbucket : avg.toNat / 512 = i := by omega
  obtain ⟨t0, t1, v, hv, hexec⟩ := exec_linTc hwf (hbucket ▸ hi : avg.toNat / 512 < s.cfg.nBuckets)
  have hextra : tcExtra t0 t1 avg.toNat = 0 := by
    rw [tcExtra_eq, havg, Nat.mul_mod_right, Nat.zero_mul, Nat.zero_div]
  refine ⟨t0, t1, hbucket ▸ hv.lower, hbucket ▸ hv.upper, hextra, v, ?_, hexec s rfl⟩
  rw [hv.value, tcCelsius, hextra, Nat.add_zero]

/-- Settles O51: inside a bucket the interpolated part grows; from one bucket to a later one, the result passes the
entry at the end of the first. -/
theorem thermocoupleConversionIsMonotone : Obligations.ThermocoupleConversionIsMonotone := by
  intro a₁ a₂ s t₁ t₂ hwf hle h₁ h₂
  obtain ⟨t0, t1, hv⟩ := interpolates_of_exec_linTc hwf h₁
  obtain ⟨u0, u1, hw⟩ := interpolates_of_exec_linTc hwf h₂
  rw [hv.toInt_eq hwf, hw.toInt_eq hwf, Nat.cast_le]
  obtain hbucket | hbucket := (Nat.div_le_div_right (c := 512) hle).eq_or_lt
  · have hlower := hv.lower
    have hupper := hv.upper
    rw [hbucket] at hlower hupper
    obtain rfl : t0 = u0 := Option.some.inj (hlower.symm.trans hw.lower)
    obtain rfl : t1 = u1 := Option.some.inj (hupper.symm.trans hw.upper)
    exact tcCelsius_mono_of_bucket _ t0 t1 hbucket hle
  · have hentry := tcTable_mono hwf hbucket hv.upper hw.lower
    calc tcCelsius s.cfg.roundBias t0 t1 a₁.toNat
        ≤ (t1.toNat + s.cfg.roundBias) / 10 := (tcCelsius_bounds (hv.le hwf) _ _).2
      _ ≤ (u0.toNat + s.cfg.roundBias) / 10 := Nat.div_le_div_right (Nat.add_le_add_right hentry _)
      _ ≤ tcCelsius s.cfg.roundBias u0 u1 a₂.toNat := (tcCelsius_bounds (hw.le hwf) _ _).1

namespace Machine

/-! Runs with the converter given by an oracle (R152). -/

theorem coreWith_run_succ (o : Oracle) (k : Nat) (s : State) :
    (coreWith o).run (k + 1) s = thenDo (stepWith o s) ((coreWith o).run k) := by
  refine (Host.Core.run.eq_2 (coreWith o) s k).trans ?_
  show _ = thenDo ((coreWith o).step s) _
  cases (coreWith o).step s <;> rfl

/-- Some number of steps leads from one state to the other. -/
def Reaches (o : Oracle) : State → State → Prop := Relation.ReflTransGen fun s t => stepWith o s = .next t

theorem Reaches.run {o : Oracle} {s t : State} (h : Reaches o s t) : ∃ k, (coreWith o).run k s = .next t := by
  induction h using Relation.ReflTransGen.head_induction_on with
  | refl => exact ⟨0, rfl⟩
  | head hstep _ ih =>
    obtain ⟨k, hk⟩ := ih
    exact ⟨k + 1, by rw [coreWith_run_succ, hstep]; exact hk⟩

theorem reaches_of_eq {o : Oracle} {s t : State} (h : s = t) : Reaches o s t := h ▸ .refl

/-- A state with the counter of free values replaced (log 4). -/
def atTick (n : Nat) (s : State) : State := { s with tick := n }

@[simp] theorem atTick_cfg (n : Nat) (s : State) : (atTick n s).cfg = s.cfg := rfl
@[simp] theorem atTick_adcSel (n : Nat) (s : State) : (atTick n s).adcSel = s.adcSel := rfl

/-- R155: a converter that never becomes ready leaves the wait as it is. -/
theorem run_of_never_ready {o : Oracle} (hr : ∀ n, o.ready n = false) (k : Nat) {s : State}
    (hwf : s.cfg.wf = true) (hq : s.seq ≠ .idle) (hd : s.adcDone = false) :
    (coreWith o).run k s = .next (atTick (s.tick + k) s) := by
  induction k generalizing s with
  | zero => rfl
  | succ k ih =>
    rw [coreWith_run_succ, stepWith_holds o hwf hq hd (hr _)]
    refine (ih (s := tickOn s) hwf hq hd).trans ?_
    rw [tickOn_tick, Nat.add_assoc, Nat.add_comm 1 k]
    rfl

/-! With a fair converter (R155, R191): every wait ends. -/

/-- A converter that is ready some ticks from now answers by then. -/
theorem AwaitsAnswer.reaches_answer {o : Oracle} {src : Source} (d : Nat) {s : State} (h : AwaitsAnswer src s)
    (hr : o.ready (s.tick + d) = true) :
    ∃ n m, Reaches o s (atTick m (answerWith (o.draw src n) s)) := by
  induction d generalizing s with
  | zero => exact ⟨s.tick, s.tick + 1, .single (h.stepWith_ready hr)⟩
  | succ d ih =>
    cases hnow : o.ready s.tick with
    | true => exact ⟨s.tick, s.tick + 1, .single (h.stepWith_ready hnow)⟩
    | false =>
      have hstep := stepWith_holds o h.wf h.waits h.unanswered hnow
      obtain ⟨n, m, hreach⟩ := ih (s := tickOn s) ⟨h.wf, h.waits, h.sel, h.unanswered, h.started⟩
        (by rw [tickOn_tick, Nat.add_assoc, Nat.add_comm 1 d]; exact hr)
      exact ⟨n, m, .head hstep hreach⟩

section
variable {o : Oracle} (hfair : Fair o) {src : Source}
include hfair

/-- The wait ends with a sample drawn from the selected source, and the operation goes on. -/
theorem AwaitsAnswer.reaches_resumed {s : State} (h : AwaitsAnswer src s) :
    ∃ n m, Reaches o s (resumed (atTick m (answerWith (o.draw src n) s))) := by
  obtain ⟨r, hle, hr⟩ := hfair s.tick
  obtain ⟨n, m, hreach⟩ := h.reaches_answer (o := o) (r - s.tick) (by rw [Nat.add_sub_cancel' hle]; exact hr)
  exact ⟨n, m, hreach.tail (stepWith_resumes o h.wf h.waits rfl)⟩

/-- R156: the samples of an average that are left, `left` of them after the one that the operation waits for. -/
theorem reaches_averaged (left : Nat) {cnt : Nat} (acc : Nat) {s : State} (hwf : s.cfg.wf = true)
    (hsel : s.adcSel = some src) (hcnt : cnt + left = s.cfg.nSamples) :
    ∃ raws m, raws.length = left + 1 ∧ (∀ raw ∈ raws, ∃ n, raw = o.draw src n) ∧
      Reaches o (started (.avgWait cnt acc) s) (atTick m (averaged acc raws s)) := by
  induction left generalizing cnt acc s with
  | zero =>
    obtain ⟨n, m, hreach⟩ := (awaitsAnswer_started (q := .avgWait cnt acc) hwf hsel (by simp)).reaches_resumed hfair
    have hlast := resumed_of_eq acc (o.draw src n) (s := atTick m s) hcnt
    exact ⟨[o.draw src n], m, rfl, by simp, hreach.trans (reaches_of_eq hlast)⟩
  | succ left ih =>
    obtain ⟨n, m, hreach⟩ := (awaitsAnswer_started (q := .avgWait cnt acc) hwf hsel (by simp)).reaches_resumed hfair
    have hlt : cnt < s.cfg.nSamples := by omega
    have hcnt' : cnt + 1 + left = s.cfg.nSamples := by omega
    have hnext := resumed_of_lt acc (o.draw src n) (cnt := cnt) (s := atTick m s) hlt
    obtain ⟨raws, m', hlen, hdrawn, hrest⟩ := ih (cnt := cnt + 1) (acc + (o.draw src n).toNat)
      (s := sampled (o.draw src n) (atTick m s)) (by simpa using hwf) (by simpa using hsel) (by simpa using hcnt')
    rw [← hnext, ← averaged_cons] at hrest
    exact ⟨o.draw src n :: raws, m', congrArg (· + 1) hlen, List.forall_mem_cons.2 ⟨⟨n, rfl⟩, hdrawn⟩,
      hreach.trans hrest⟩

/-- R154, R156: taken up after a wait, the operation ends, for ACQ.AVG after the samples left. -/
theorem reaches_end_of_resumed {s : State} (hwf : s.cfg.wf = true) (hq : s.seq ≠ .idle)
    (hsel : s.adcSel = some src) : ∃ t, Reaches o (resumed s) t ∧ busy t = false := by
  cases hseq : s.seq with
  | idle => exact absurd hseq hq
  | sampleWait => exact ⟨resumeSample s, reaches_of_eq (by rw [resumed, hseq]), rfl⟩
  | avgWait cnt acc =>
    have hresumed : resumed s = resumeAvg cnt acc s := by rw [resumed, hseq]
    obtain ⟨hlt, hnext⟩ | ⟨-, hlast⟩ := resumeAvg_cases cnt acc s
    · obtain ⟨raws, m, -, -, hreach⟩ := reaches_averaged hfair (s.cfg.nSamples - (cnt + 1)) (cnt := cnt + 1)
        (acc + s.adcData.toNat) (s := takeSample s) hwf hsel (Nat.add_sub_cancel' hlt)
      exact ⟨_, (reaches_of_eq (hresumed.trans hnext)).trans hreach, rfl⟩
    · exact ⟨_, reaches_of_eq (hresumed.trans hlast), rfl⟩

/-- R155: from a `START`, answered or not, the operation completes. -/
theorem reaches_end_of_wait {s : State} (hwf : s.cfg.wf = true) (hq : s.seq ≠ .idle)
    (hsel : s.adcSel = some src) (hlog : s.adcLog.getLast? = some .start) : ∃ t, Reaches o s t ∧ busy t = false := by
  cases hd : s.adcDone with
  | true =>
    obtain ⟨t, hreach, hidle⟩ := reaches_end_of_resumed hfair hwf hq hsel
    exact ⟨t, .head (stepWith_resumes o hwf hq hd) hreach, hidle⟩
  | false =>
    obtain ⟨n, m, hanswer⟩ := (AwaitsAnswer.mk hwf hq hsel hd hlog).reaches_resumed hfair
    obtain ⟨t, hreach, hidle⟩ := reaches_end_of_resumed hfair (s := atTick m (answerWith (o.draw src n) s)) hwf hq hsel
    exact ⟨t, hanswer.trans hreach, hidle⟩

end

end Machine

/-- Settles O46: a fair converter becomes ready again, and each answer leaves one sample fewer to take. -/
theorem fairConverterEndsEveryWait : Obligations.FairConverterEndsEveryWait := by
  refine fun o s hwf hq hc hlog => ⟨fun hfair => ?_, fun hr hd k => run_of_never_ready hr k hwf hq hd⟩
  obtain ⟨src, hsel⟩ := Option.ne_none_iff_exists'.1 hc
  obtain ⟨t, hreach, hidle⟩ := reaches_end_of_wait hfair hwf hq hsel hlog
  obtain ⟨k, hrun⟩ := hreach.run
  exact ⟨k, t, hrun, hidle⟩

namespace Machine

/-! ACQUIRE (R163): one path of it, from the configure step to the second read of `RES`. -/

section
variable {o : Oracle} {s t : State} {rest : List HostAct} (hwf : s.cfg.wf = true) (hq : s.seq = .idle)
include hwf hq

/-- One act of the host at the port (R192). -/
theorem reaches_of_act {a : HostAct} (hh : s.host = a :: rest) (hact : hostAct a { s with host := rest } = .next t) :
    Reaches o s t :=
  .single (by simpa [stepWith, seqStep, portStep, hwf, hq, hh] using hact)

theorem reaches_of_issueOp {i : Instr} (hh : s.host = issueOp i :: rest)
    (hexec : exec i { s with host := rest } = .next t) : Reaches o s t :=
  reaches_of_act hwf hq hh ((runWord_of_decode (decodeInvertsEncode i) _).trans hexec)

theorem reaches_of_readRes (hh : s.host = .readRes :: rest) (hw : s.resWritten = true) :
    Reaches o s { s with host := rest, resReads := s.resReads ++ [s.res] } :=
  reaches_of_act hwf hq hh (if_pos hw)

end

/-- The last value the host has read is the one it presents. -/
theorem earlierRead_last {s : State} {before : List Half} {v : Half} (h : s.resReads = before ++ [v]) :
    earlierRead s 0 = v := by
  simp [earlierRead, h]

/-- Read `RES`, convert what was read, and read the result (R163). -/
theorem reaches_converted {o : Oracle} {s : State} {convert : Instr} {v : Half} {rest : List HostAct}
    (hwf : s.cfg.wf = true) (hq : s.seq = .idle)
    (hh : s.host = .readRes :: .issueRead (encode convert) 0 :: .readRes :: rest) (hw : s.resWritten = true)
    (hconvert : ∀ t, t.cfg = s.cfg → runWord (withImm (encode convert) s.res) t = .next (writeRes v t)) :
    Reaches o s { s with host := rest, res := v, resReads := s.resReads ++ [s.res, v] } := by
  have hread := reaches_of_readRes (o := o) hwf hq hh hw
  have hword := reaches_of_act (o := o)
    (t := writeRes v { s with host := .readRes :: rest, resReads := s.resReads ++ [s.res] })
    (s := { s with host := .issueRead (encode convert) 0 :: .readRes :: rest, resReads := s.resReads ++ [s.res] })
    hwf hq rfl (by rw [hostAct, earlierRead_last rfl]; exact hconvert _ rfl)
  have hresult := reaches_of_readRes (o := o) (rest := rest)
    (s := writeRes v { s with host := .readRes :: rest, resReads := s.resReads ++ [s.res] }) hwf hq rfl rfl
  refine hread.trans (hword.trans (hresult.trans (reaches_of_eq ?_)))
  simp [writeRes, hw]

/-- R82: LIN.INT of an average put into `IMM`. -/
theorem runWord_linInt {avg : Nat} (h : avg ≤ 1023) (t : State) :
    runWord (withImm (encode (.linInt 0)) (BitVec.ofNat 16 avg)) t =
      .next (writeRes (BitVec.ofInt 16 (linCelsius t.cfg avg)) t) := by
  have havg : (BitVec.ofNat 10 avg).toNat = avg := by rw [BitVec.toNat_ofNat]; omega
  have hword : withImm (encode (.linInt 0)) (BitVec.ofNat 16 avg) = encode (.linInt (BitVec.ofNat 10 avg)) := by
    rw [withImm, encode, opField_pack, pgField_pack, colField_pack, encode, ← BitVec.ofNat_toNat, havg]
  rw [hword, runWord_of_decode (decodeInvertsEncode _), exec, execLinInt, havg]

/-- R82: LIN.TC of an average put into `IMM`. The first two buckets are in every table. -/
theorem runWord_linTc {c : Config} (hwf : c.wf = true) {avg : Nat} (h : avg ≤ 1023) :
    ∃ t0 t1 v, Interpolates c avg t0 t1 v ∧ ∀ t : State, t.cfg = c →
      runWord (withImm (encode (.linTc 0)) (BitVec.ofNat 16 avg)) t = .next (writeRes v t) := by
  have havg : (BitVec.ofNat 16 avg).toNat = avg := by rw [BitVec.toNat_ofNat]; omega
  have hbuckets := (Config.wf_buckets hwf).1
  obtain ⟨t0, t1, v, hv, hexec⟩ := exec_linTc hwf (avg := BitVec.ofNat 16 avg) (by omega)
  refine ⟨t0, t1, v, havg ▸ hv, fun t ht => ?_⟩
  rw [withImm, encode, opField_pack, pgField_pack, colField_pack]
  exact (runWord_of_decode (decodeInvertsEncode (.linTc (BitVec.ofNat 16 avg))) t).trans (hexec t ht)

/-- What a path of ACQUIRE changes: it has selected `src`, taken the samples `raws`, and converted their mean to `v`;
the host has read the mean and `v`, and `rest` is left for it to do. -/
def acquired (src : Source) (raws : List Sample) (v : Half) (rest : List HostAct) (n : Nat) (s : State) : State :=
  { s with
    adcSel := some src
    adcDone := false
    adcData := raws.getLast?.getD s.adcData
    adcLog := s.adcLog ++ [.cfg src] ++ raws.flatMap fun raw => [.start, .take raw]
    res := v
    resWritten := true
    seq := .idle
    host := rest
    resReads := s.resReads ++ [BitVec.ofNat 16 (mean s.cfg raws), v]
    tick := n }

/-- What a configure step does (R151, R153). -/
def selected (src : Source) (s : State) : State := adcEvent (.cfg src) (setAdcSel src s)

section
variable {o : Oracle} (hfair : Fair o) {src : Source} {configure : Instr}
  (hconfigure : ∀ s, exec configure s = .next (selected src s))
  {s : State} {rest : List HostAct} (hwf : s.cfg.wf = true) (hq : s.seq = .idle)
include hfair hconfigure hwf hq

/-- Configure, and average. -/
theorem reaches_mean (hh : s.host = issueOp configure :: issueOp .acqAvg :: rest) :
    ∃ raws n, raws.length = s.cfg.nSamples ∧ (∀ raw ∈ raws, ∃ n, raw = o.draw src n) ∧
      Reaches o s (atTick n (averaged 0 raws { selected src s with host := rest })) := by
  have hn := Config.wf_samples hwf
  have hconfigured := reaches_of_issueOp (o := o) hwf hq hh (hconfigure _)
  have hstarted := reaches_of_issueOp (o := o) (rest := rest)
    (s := { selected src s with host := issueOp .acqAvg :: rest }) hwf hq rfl (exec_acqAvg nofun)
  obtain ⟨raws, n, hlen, hdrawn, haveraged⟩ := reaches_averaged hfair (s.cfg.nSamples - 1) (cnt := 1) 0
    (s := { selected src s with host := rest }) hwf rfl (Nat.add_sub_cancel' hn)
  exact ⟨raws, n, hlen.trans (Nat.sub_add_cancel hn), hdrawn, hconfigured.trans (hstarted.trans haveraged)⟩

/-- A whole path, whatever its conversion answers. -/
theorem reaches_acquired {convert : Instr} (hh : s.host = acquirePath configure convert ++ rest) :
    ∃ raws n, raws.length = s.cfg.nSamples ∧ (∀ raw ∈ raws, ∃ n, raw = o.draw src n) ∧
      ∀ v, (∀ t, t.cfg = s.cfg →
          runWord (withImm (encode convert) (BitVec.ofNat 16 (mean s.cfg raws))) t = .next (writeRes v t)) →
        Reaches o s (acquired src raws v rest n s) := by
  obtain ⟨raws, n, hlen, hdrawn, hmean⟩ := reaches_mean hfair hconfigure hwf hq hh
  refine ⟨raws, n, hlen, hdrawn, fun v hconvert => hmean.trans ?_⟩
  have hres : (averaged 0 raws s).res = BitVec.ofNat 16 (mean s.cfg raws) := by simp [averaged, mean]
  have hpath := reaches_converted (o := o) (convert := convert) (v := v) (rest := rest)
    (s := atTick n (averaged 0 raws { selected src s with
      host := .readRes :: .issueRead (encode convert) 0 :: .readRes :: rest }))
    hwf rfl rfl rfl (hres.symm ▸ hconvert)
  refine hpath.trans (reaches_of_eq ?_)
  simp [acquired, selected, averaged, atTick, mean]

end

end Machine

/-- Settles O53: the two paths of ACQUIRE, one after the other. -/
theorem acquireReadsBothTemperatures : Obligations.AcquireReadsBothTemperatures := by
  intro o s rest hfair hwf hq hh
  obtain ⟨rawsI, n, hlenI, hdrawnI, hinternal⟩ := reaches_acquired hfair (src := .internal) (configure := .adcCfgi)
    (convert := .linInt 0) (rest := acquirePath .adcCfgt (.linTc 0) ++ rest) (fun _ => rfl) hwf hq hh
  have hreachI := hinternal (BitVec.ofInt 16 (linCelsius s.cfg (mean s.cfg rawsI))) fun t ht =>
    ht ▸ runWord_linInt (mean_le hlenI) t
  obtain ⟨rawsT, m, hlenT, hdrawnT, hthermocouple⟩ := reaches_acquired hfair (src := .thermocouple)
    (configure := .adcCfgt) (convert := .linTc 0) (rest := rest)
    (s := acquired .internal rawsI (BitVec.ofInt 16 (linCelsius s.cfg (mean s.cfg rawsI)))
      (acquirePath .adcCfgt (.linTc 0) ++ rest) n s) (fun _ => rfl) hwf rfl rfl
  obtain ⟨t0, t1, v, hv, hconvert⟩ := runWord_linTc hwf (mean_le (c := s.cfg) hlenT)
  obtain ⟨k, hrun⟩ := Reaches.run (hreachI.trans (hthermocouple v hconvert))
  refine ⟨k, _, rawsI, rawsT, mean s.cfg rawsI, mean s.cfg rawsT, t0, t1, hrun, rfl, rfl, hlenI, hdrawnI, hlenT,
    hdrawnT, rfl, rfl, rfl, hv.lower, hv.upper, ?_, rfl, rfl, rfl, rfl, rfl⟩
  rw [← hv.eq_ofNat]
  exact List.append_assoc ..

end Sys2Proof
end

section
/-! SUPPORT. Family 60_exceptions.md: the host's read of `RES` (60_exceptions.md rules R182, R192) and the order of an
operation's admission checks (R184). -/

namespace Sys2Proof

open Machine

namespace Machine

/-! The host's read of `RES` (R192, R35). -/

theorem readRes_of_written {s : State} (hw : s.resWritten = true) :
    readRes s = .next { s with resReads := s.resReads ++ [s.res] } := if_pos hw

theorem readRes_of_unwritten {s : State} (hw : s.resWritten = false) : readRes s = .refused .resUnwritten := by
  simp [readRes, refuse, hw]

end Machine

/-- Settles O9: the step is the read, and the flag decides it. -/
theorem hostReadOfResult : Obligations.HostReadOfResult := by
  intro s rest hwf hq hh
  have hstep : step s = readRes { s with host := rest } := step_of_presented hwf hq hh
  exact ⟨fun hw => hstep.trans (readRes_of_written hw), fun hw => hstep.trans (readRes_of_unwritten hw)⟩

namespace Machine

/-! The first violated condition (R184). -/

/-- A result is the refusal of the first violated condition, or a next state where there is none. -/
def AnswersFirst (first : Option Refusal) (r : Result) : Prop :=
  match first with
  | some reason => r = .refused reason
  | none => ∃ t, r = .next t

/-- `checkThen` goes by the first check that fails, if its body completes where none does. -/
theorem answersFirst_checkThen {first : Option Refusal} {checks : List (Bool × Refusal)} {s : State}
    {body : State → Result} (hfirst : first = (checks.find? fun c => !c.1).map (·.2))
    (hbody : (∀ c ∈ checks, c.1 = true) → ∃ t, body s = .next t) :
    AnswersFirst first (checkThen checks s body) := by
  subst hfirst
  induction checks with
  | nil => exact hbody nofun
  | cons c rest ih =>
    obtain ⟨ok, r⟩ := c
    cases ok with
    | false => exact rfl
    | true => exact ih fun hrest => hbody (List.forall_mem_cons.2 ⟨rfl, hrest⟩)

theorem phaseAdmits_busInit (p : Phase) : phaseAdmits .busInit p = decide (p ≠ .transmitting) := by
  cases p <;> rfl

/-- Where its bucket is in the table, LIN.TC's body completes (R159, R160). -/
theorem linTcBody_completes {s : State} (hwf : s.cfg.wf = true) {avg : Half}
    (hb : avg.toNat / 512 < s.cfg.nBuckets) : ∃ t, linTcBody avg s = .next t := by
  obtain ⟨_, _, v, -, hexec⟩ := exec_linTc hwf hb
  exact ⟨_, (checkThen_eq_next.1 (hexec s rfl)).2⟩

/-- R184. Of the conditions of R182, those about other operations are `true` by definition, so `firstRefusal` goes by
the checks of the operation's own arm, in the same order; where they all hold, a well-formed configuration has the
ROM entries that the body reads (R51). -/
theorem exec_answersFirst (i : Instr) {s : State} (hwf : s.cfg.wf = true) :
    AnswersFirst (firstRefusal i s) (exec i s) := by
  cases i with
  | busInit => exact answersFirst_checkThen (by rw [← phaseAdmits_busInit]; rfl) fun _ => ⟨_, rfl⟩
  | busStart | busWrite | busStop | dspInit | dspCursor | dspClear | adcSample | acqAvg =>
    exact answersFirst_checkThen rfl fun _ => ⟨_, rfl⟩
  | dspGlyph idx =>
    refine answersFirst_checkThen rfl fun hchecks => ?_
    have hidx : idx.toNat ≤ 13 := by simpa [idlePhase] using (List.forall_mem_cons.1 hchecks).2
    exact ⟨_, glyphBody_eq (glyphRow_of_wf hwf hidx).1⟩
  | dspInt v column page => exact answersFirst_checkThen rfl fun _ => ⟨_, intBody_eq v column page hwf⟩
  | adcCfgi | adcCfgt | linInt => exact ⟨_, rfl⟩
  | linTc avg =>
    refine answersFirst_checkThen (by rw [tcBucket_eq]; rfl) fun hchecks => linTcBody_completes hwf ?_
    simpa [tcBucket_eq] using hchecks

end Machine

/-- Settles O20, operation by operation: the checks before its body, and the body's completion once they hold. -/
theorem firstViolationRefusesElseCompletes : Obligations.FirstViolationRefusesElseCompletes :=
  fun i _ => exec_answersFirst i

end Sys2Proof
end

section
/-! SUPPORT. Family 70_reset_and_hazards.md: how many actions each operation appends to `TRACE`
(70_reset_and_hazards.md rule R216), and the start-up sequence from reset (R201, R215). -/

namespace Sys2Proof

open Machine

namespace Machine

/-! The lengths of the action lists (R216). -/

/-- One transaction: its start, 36 actions and its 1 bits for each byte, its stop. -/
theorem length_wireActions (o : StartOrder) (bytes : List Byte) :
    (wireActions o bytes).length = 5 + 36 * bytes.length + (bytes.map popcount).sum := by
  have hbytes : (bytes.flatMap byteActions).length = 36 * bytes.length + (bytes.map popcount).sum := by
    induction bytes with
    | nil => rfl
    | cons v rest ih =>
      simp only [List.flatMap_cons, List.length_append, length_byteActions, ih, List.length_cons, List.map_cons,
        List.sum_cons]
      omega
  have hstart : (startCondActions o).length = 2 := by cases o <;> rfl
  simp only [wireActions, List.length_append, hbytes, hstart, stopActions, List.length_cons, List.length_nil]
  omega

/-- A transaction of the Display Driver: the address byte and the control byte before the bytes sent. -/
theorem length_wireActions_txnBytes (o : StartOrder) (c : Config) (ctrl : Byte) (bs : List Byte) :
    (wireActions o (txnBytes c ctrl bs)).length =
      41 + popcount c.dispAddrByte + 36 * (bs.length + 1) + popcount ctrl + (bs.map popcount).sum := by
  simp only [length_wireActions, txnBytes, List.length_cons, List.map_cons, List.sum_cons]
  omega

/-- The actions of `TXN`, counted on `TRACE`. -/
theorem length_trace_txn (ctrl : Byte) (bs : List Byte) (s : State) :
    (txn ctrl bs s).trace.length = s.trace.length +
      (41 + popcount s.cfg.dispAddrByte + 36 * (bs.length + 1) + popcount ctrl + (bs.map popcount).sum) := by
  rw [txn_eq, trace_afterActions, List.length_append, length_wireActions_txnBytes]

/-- R76: the 1 bits of the two control bytes. -/
theorem popcount_ctrl : popcount ctrlCmd = 0 ∧ popcount ctrlData = 1 := by decide

section
variable (o : StartOrder) (c : Config)

theorem length_wireActions_cursorTxn (column : Byte) (page : BitVec 4) :
    (wireActions o (cursorTxn c column page)).length =
      185 + popcount c.dispAddrByte + ((cursorBytes c column page).map popcount).sum := by
  have hthree : (cursorBytes c column page).length = 3 := rfl
  rw [cursorTxn, length_wireActions_txnBytes, hthree, popcount_ctrl.1]
  omega

theorem length_wireActions_glyphTxn {idx : Nat} (hrow : (glyphRow c idx).length = 6) :
    (wireActions o (glyphTxn c idx)).length =
      294 + popcount c.dispAddrByte + ((glyphRow c idx).map popcount).sum := by
  rw [glyphTxn, length_wireActions_txnBytes, hrow, popcount_ctrl.2]
  omega

/-- A cell of DSP.CLEAR: a cursor, and a transaction of one zero byte. -/
theorem length_clearCell (column : Byte) (page : BitVec 4) :
    ([cursorTxn c column page, txnBytes c ctrlData [0x00]].flatMap (wireActions o)).length =
      299 + 2 * popcount c.dispAddrByte + ((cursorBytes c column page).map popcount).sum := by
  have hzero : ([0x00].map popcount).sum = 0 := by decide
  simp only [List.flatMap_cons, List.flatMap_nil, List.append_nil, List.length_append, length_wireActions_cursorTxn,
    length_wireActions_txnBytes, popcount_ctrl.2, hzero, List.length_cons, List.length_nil]
  omega

end

/-- What every entry of a sum has in common, taken out. -/
theorem sum_map_const_add {α : Type} (l : List α) (k : Nat) (f : α → Nat) :
    (l.map fun x => k + f x).sum = l.length * k + (l.map f).sum := by
  rw [List.sum_map_add, List.map_const', List.sum_replicate, smul_eq_mul]

/-- DSP.CLEAR: 16 times 128 cells. -/
theorem length_clearActions (o : StartOrder) (c : Config) :
    ((clearTxns c).flatMap (wireActions o)).length =
      2048 * (299 + 2 * popcount c.dispAddrByte) +
        ((List.range 16).map fun pg => ((List.range 128).map fun cl =>
          ((cursorBytes c (BitVec.ofNat 8 cl) (BitVec.ofNat 4 pg)).map popcount).sum).sum).sum := by
  simp only [clearTxns, nPages, nCols, List.flatMap_assoc, List.length_flatMap (l := List.range _), length_clearCell,
    sum_map_const_add, List.length_range]
  omega

/-- R126: how many actions the glyph `entry.1` takes, with its cursor, at place `entry.2` of a field that begins at
`column`. -/
def fieldEntryLength (c : Config) (page : BitVec 4) (column : Nat) (entry : Nat × Nat) : Nat :=
  (185 + popcount c.dispAddrByte +
    ((cursorBytes c (BitVec.ofNat 8 (column + 6 * entry.2)) page).map popcount).sum) +
  (294 + popcount c.dispAddrByte + ((glyphRow c entry.1).map popcount).sum)

/-- The field of DSP.INT, from its place `j` on. -/
theorem length_fieldActions {c : Config} (hwf : c.wf = true) (o : StartOrder) (page : BitVec 4) (column : Nat)
    (gs : List Nat) (hgs : ∀ g ∈ gs, g ≤ 13) (j : Nat) :
    ((fieldTxns c page (BitVec.ofNat 8 (column + 6 * j)) gs).flatMap (wireActions o)).length =
      ((gs.zipIdx j).map (fieldEntryLength c page column)).sum := by
  induction gs generalizing j with
  | nil => rfl
  | cons g rest ih =>
    obtain ⟨hg, hrest⟩ := List.forall_mem_cons.1 hgs
    have hnext : BitVec.ofNat 8 (column + 6 * j) + 6 = BitVec.ofNat 8 (column + 6 * (j + 1)) := by
      rw [Nat.mul_succ, ← Nat.add_assoc]
      exact (BitVec.ofNat_add ..).symm
    rw [fieldTxns, hnext, List.flatMap_cons, List.flatMap_cons, List.length_append, List.length_append, ih hrest,
      length_wireActions_cursorTxn, length_wireActions_glyphTxn o c (glyphRow_of_wf hwf hg).2, ← Nat.add_assoc]
    rfl

/-! From an operation's answer to its actions. -/

theorem phaseAdmits_of_exec {i : Instr} {s t : State} (h : exec i s = .next t) : phaseAdmits i s.phase = true := by
  by_contra hno
  rw [(exec_refused_busPhase_iff i s).2 (Bool.eq_false_iff.2 hno)] at h
  nomatch h

/-- A result that has a closed form appends the actions of that form. -/
theorem trace_of_closed_form {r : Result} {s t : State} {acts : List PinAction} {sda scl : Drive} {p : Phase}
    (h : r = .next t) (hform : r = .next (afterActions acts sda scl p s)) : t.trace = s.trace ++ acts := by
  cases hform.symm.trans h
  exact trace_afterActions ..

theorem length_trace_of_append {s t : State} {acts : List PinAction} {n : Nat} (ht : t.trace = s.trace ++ acts)
    (hn : acts.length = n) : t.trace.length = s.trace.length + n := by
  rw [ht, List.length_append, hn]

end Machine

/-- Settles O41: the actions of a Bus or Display operation are a list whose length is the sum of its bytes'; an
operation of the pipeline leaves `TRACE` as it is. -/
theorem actionCounts : Obligations.ActionCounts := by
  refine ⟨length_trace_txn, fun i s t hwf h => ?_⟩
  have hadmits := phaseAdmits_of_exec h
  cases i with
  | busInit => exact length_trace_of_append (exec_busActions rfl h) rfl
  | busWrite v => exact length_trace_of_append (exec_busActions rfl h) (length_byteActions v)
  | busStart a => exact length_trace_of_append (exec_busActions rfl h) (length_startActions _ a)
  | busStop => exact length_trace_of_append (exec_busActions rfl h) rfl
  | dspInit =>
    refine length_trace_of_append (trace_of_closed_form h (exec_dspInit (of_decide_eq_true hadmits))) ?_
    rw [length_wireActions_txnBytes, popcount_ctrl.1, Nat.add_zero]
  | dspCursor column page =>
    exact length_trace_of_append (trace_of_closed_form h (exec_dspCursor (of_decide_eq_true hadmits) column page))
      (length_wireActions_cursorTxn ..)
  | dspGlyph idx =>
    have hp : s.phase = .idle := of_decide_eq_true hadmits
    have hidx : idx.toNat ≤ 13 := by
      by_contra hno
      rw [exec_dspGlyph_refused hp (not_le.1 hno)] at h
      nomatch h
    exact length_trace_of_append (trace_of_closed_form h (exec_dspGlyph hwf hp hidx))
      (length_wireActions_glyphTxn _ _ (glyphRow_of_wf hwf hidx).2)
  | dspClear =>
    exact length_trace_of_append (trace_of_closed_form h (exec_dspClear (of_decide_eq_true hadmits)))
      (length_clearActions ..)
  | dspInt v column page =>
    obtain ⟨-, hbody⟩ := checkThen_eq_next.1 h
    refine length_trace_of_append (trace_of_closed_form hbody (intBody_eq v column page hwf)) ?_
    rw [← BitVec.ofNat_toNat]
    exact length_fieldActions hwf _ page column.toNat _ (mem_glyphs_le v) 0
  | adcCfgi | adcCfgt | adcSample | acqAvg | linInt | linTc =>
    cases exec_cases h with
    | display _ _ _ _ hdisplay => simp at hdisplay
    | _ => rfl

namespace Machine

/-! The start-up sequence (R201). -/

/-- A run that begins with the host presenting an operation goes on from where the operation ends. -/
theorem core_run_issueOp {s t : State} {i : Instr} {rest : List HostAct} (k : Nat) (hwf : s.cfg.wf = true)
    (hq : s.seq = .idle) (hh : s.host = issueOp i :: rest) (hexec : exec i { s with host := rest } = .next t) :
    Sys2Proof.core.run (k + 1) s = Sys2Proof.core.run k t := by
  have hstep : step s = .next t :=
    (step_of_presented hwf hq hh).trans ((runWord_of_decode (decodeInvertsEncode i) _).trans hexec)
  exact (core_run_succ k s).trans (congrArg (thenDo · (Sys2Proof.core.run k)) hstep)

/-- Since reset, the actions `acts` have been emitted, and the bus is idle; the host has `rest` still to do. -/
def idleSinceReset (c : Config) (acts : List PinAction) (rest : List HostAct) : State :=
  afterActions acts .rel .rel .idle { State.resetWith c with host := rest }

theorem trace_idleSinceReset (c : Config) (acts : List PinAction) (rest : List HostAct) :
    (idleSinceReset c acts rest).trace = acts := trace_afterActions ..

/-- Presenting BUS.INIT right after reset. -/
theorem core_run_busInit {c : Config} (hwf : c.wf = true) (k : Nat) (rest : List HostAct) :
    Sys2Proof.core.run (k + 1) { State.resetWith c with host := issueOp .busInit :: rest } =
      Sys2Proof.core.run k (idleSinceReset c [.sclRel, .sdaRel] rest) :=
  core_run_issueOp k hwf rfl rfl (exec_busInit nofun)

/-- Presenting, after it, an operation that ends idle again. -/
theorem core_run_idleSinceReset {c : Config} (hwf : c.wf = true) (k : Nat) {i : Instr} {acts added : List PinAction}
    {rest : List HostAct}
    (hexec : exec i (idleSinceReset c acts rest) =
      .next (afterActions added .rel .rel .idle (idleSinceReset c acts rest))) :
    Sys2Proof.core.run (k + 1) (idleSinceReset c acts (issueOp i :: rest)) =
      Sys2Proof.core.run k (idleSinceReset c (acts ++ added) rest) := by
  refine core_run_issueOp k hwf rfl rfl (hexec.trans ?_)
  rw [idleSinceReset, afterActions_afterActions, idleSinceReset]

/-- R215: a run whose last act left the bus idle has ended well. -/
theorem endedWell_idleSinceReset (c : Config) (acts : List PinAction) : EndedWell (idleSinceReset c acts []) :=
  ⟨rfl, rfl, rfl, rfl, rfl⟩

/-- R103: on released lines BUS.INIT makes no bus event. -/
theorem busDecode_busInit (acts : List PinAction) :
    busDecode ⟨.rel, .rel⟩ ([.sclRel, .sdaRel] ++ acts) = busDecode ⟨.rel, .rel⟩ acts := rfl

end Machine

/-- Settles O52: BUS.INIT makes the bus idle and no event, and the two display operations emit their transactions. -/
theorem startUpEndsWell : Obligations.StartUpEndsWell := by
  intro c hwf ho
  have hrun : Sys2Proof.core.run 3 { State.resetWith c with host := startUp } =
      .next (idleSinceReset c ([.sclRel, .sdaRel] ++ wireActions c.startOrder (txnBytes c ctrlCmd c.initSeq) ++
        (clearTxns c).flatMap (wireActions c.startOrder)) []) :=
    calc
      _ = Sys2Proof.core.run 2 _ := core_run_busInit hwf 2 [issueOp .dspInit, issueOp .dspClear]
      _ = Sys2Proof.core.run 1 _ := core_run_idleSinceReset hwf 1 (exec_dspInit rfl)
      _ = Sys2Proof.core.run 0 _ := core_run_idleSinceReset hwf 0 (exec_dspClear rfl)
  refine ⟨_, hrun, endedWell_idleSinceReset c _, ?_⟩
  rw [trace_idleSinceReset, List.append_assoc, busDecode_busInit, ho, ← List.flatMap_cons]
  exact busDecode_transactions _

end Sys2Proof
end
